-- ==== Sys2Proof/Config.lean ====
section
/-! DEFINITION. Config: what is fixed for the machine (00_scope.md R6, R8). The spec has no open parameter and leaves no
value free (R193; 00_scope.md section 7 "Open parameters: none"), so no constant here is opaque. The tables (RC, RHO, the mode
table) stand in Machine/Tables.lean. -/

namespace Sys2Proof.Config

/-- Number of lanes: 25, a 5 by 5 matrix (R6). -/
abbrev laneCount : Nat := 25

/-- Bytes of the state byte array: 200 (R6, R50). -/
abbrev stateBytes : Nat := 200

/-- Rounds of one permutation: 24, fixed (R6). -/
abbrev roundCount : Nat := 24

end Sys2Proof.Config
end

