-- ==== Sys2Proof/Word.lean ====
section
/-! DEFINITION. Word types (00_scope.md R6, R8, R9): bit 0 is the least significant bit of each, and every value is unsigned. -/

namespace Sys2Proof

/-- A message byte, digest byte or state byte (R8, R52). -/
abbrev Byte := BitVec 8

/-- One of the 25 lanes of the state, 64 bits (R20). -/
abbrev Lane := BitVec 64

/-- A word of the command port, 32 bits (R70). -/
abbrev CommandWord := BitVec 32

/-- A word of the response port, 16 bits (R77). -/
abbrev ResponseWord := BitVec 16

/-- The 1600-bit state: lane number `x + 5*y` is the lane at column `x`, row `y` (R20, R21). -/
abbrev Lanes := Vector Lane Config.laneCount

/-- The all-zero 1600-bit state (R24, R36). -/
def zeroLanes : Lanes := Vector.replicate Config.laneCount 0

end Sys2Proof
end

