-- ==== Sys2Proof/Syntax.lean ====
section
/-! DEFINITION. The 15 commands of KCMD version 1 (30_encoding.md R72), one constructor per row of spec/opcode_table.json.
An operand is the unsigned field of the word as it stands (R71), so its type is exactly as wide as its field and no operand
value is lost: the values that a command refuses (R75) are values of the type. -/

namespace Sys2Proof

inductive Instr where
  /-- INIT mode, cap: start an invocation (R130). -/
  | init (mode : BitVec 3) (cap : BitVec 16)
  /-- ABSORB imm8: absorb one message byte (R131). -/
  | absorb (imm8 : Byte)
  /-- FINAL: pad, absorb the last block, switch to squeezing (R132). -/
  | final
  /-- SQUEEZE: give one output byte (R133). -/
  | squeeze
  /-- STAT: read the control state (R134). -/
  | stat
  /-- CLEAR: end the invocation and wipe the state (R135). -/
  | clear
  /-- PERMUTE: the 24-round permutation (R106). -/
  | permute
  /-- ROUND idx: one round (R105). -/
  | round (idx : BitVec 5)
  /-- THETA (R100). -/
  | theta
  /-- RHO (R101). -/
  | rho
  /-- PI (R102). -/
  | pi
  /-- CHI (R103). -/
  | chi
  /-- IOTA idx (R104). -/
  | iota (idx : BitVec 5)
  /-- WRS addr, imm8: write one state byte (R150). -/
  | wrs (addr : BitVec 8) (imm8 : Byte)
  /-- RDS addr: read one state byte (R151). -/
  | rds (addr : BitVec 8)
  deriving DecidableEq, Repr

end Sys2Proof
end

