-- ==== Sys2Proof/WellFormed.lean ====
section
/-! DEFINITION. Which instructions are well formed: every operand has a value that 30_encoding.md R71 calls legal. (The width
of each operand is in its type. The spec itself uses "well-formed command" for any word that matches a row, R75; an
instruction that is not `WellFormed` here is such a command with an out-of-range operand, which the machine runs and answers
with BadOperand. Decoding and encoding are stated for ALL instructions, not only the well-formed ones.) -/

namespace Sys2Proof

/-- The legal operand values of R71: `mode` 0 to 5, `idx` 0 to 23, `addr` 0 to 199; every `cap` and every `imm8`. -/
def Instr.wellFormed : Instr → Bool
  | .init mode _ => decide (mode.toNat ≤ 5)
  | .absorb _ => true
  | .final => true
  | .squeeze => true
  | .stat => true
  | .clear => true
  | .permute => true
  | .round idx => decide (idx.toNat ≤ 23)
  | .theta => true
  | .rho => true
  | .pi => true
  | .chi => true
  | .iota idx => decide (idx.toNat ≤ 23)
  | .wrs addr _ => decide (addr.toNat ≤ 199)
  | .rds addr => decide (addr.toNat ≤ 199)

/-- Every operand is in its legal range (R71). -/
abbrev Instr.WellFormed (i : Instr) : Prop := i.wellFormed = true

end Sys2Proof
end

