-- ==== Sys2Proof/Decode.lean ====
section
/-! DEFINITION. Decoding and encoding of command words (30_encoding.md R70 to R76). The opcode table is data, one row per
row of R72; the decoder is the procedure of R73; the encoder lays the operands out as the formats of R70 do. -/

namespace Sys2Proof

/-- Why a word is illegal (R74): both reasons are answered with the status IllegalCommand (R161, R164). -/
inductive DecodeError where
  /-- `op` is none of the 15 opcodes. -/
  | unknownOpcode
  /-- `op` is known and a reserved operand bit is 1. -/
  | reservedBits
  deriving DecidableEq, Repr

/-- Bits 31:24 of a command word (R70). -/
def opField (w : CommandWord) : BitVec 8 := w.extractLsb' 24 8

/-- Bits 18:16, the `mode` operand (R71). -/
def modeField (w : CommandWord) : BitVec 3 := w.extractLsb' 16 3

/-- Bits 15:0, the `cap` operand (R71). -/
def capField (w : CommandWord) : BitVec 16 := w.extractLsb' 0 16

/-- Bits 7:0, the `imm8` operand (R71). -/
def imm8Field (w : CommandWord) : Byte := w.extractLsb' 0 8

/-- Bits 4:0, the `idx` operand (R71). -/
def idxField (w : CommandWord) : BitVec 5 := w.extractLsb' 0 5

/-- Bits 15:8, the `addr` operand (R71). -/
def addrField (w : CommandWord) : BitVec 8 := w.extractLsb' 8 8

/-- One row of the opcode map: a word `w` is the command exactly when `w & mask = pattern` (R72). -/
structure OpcodeRow where
  mnemonic : String
  mask : CommandWord
  pattern : CommandWord
  /-- Operand assembly of the row's format (R71). -/
  assemble : CommandWord → Instr

/-- Does the word match the row (R72)? -/
def OpcodeRow.matches (r : OpcodeRow) (w : CommandWord) : Bool := w &&& r.mask == r.pattern

/-- The opcode map (R72), in the table's order. -/
def opcodeTable : List OpcodeRow := [
  ⟨"INIT", 0xFFF80000, 0x01000000, fun w => .init (modeField w) (capField w)⟩,
  ⟨"ABSORB", 0xFFFFFF00, 0x02000000, fun w => .absorb (imm8Field w)⟩,
  ⟨"FINAL", 0xFFFFFFFF, 0x03000000, fun _ => .final⟩,
  ⟨"SQUEEZE", 0xFFFFFFFF, 0x04000000, fun _ => .squeeze⟩,
  ⟨"STAT", 0xFFFFFFFF, 0x05000000, fun _ => .stat⟩,
  ⟨"CLEAR", 0xFFFFFFFF, 0x06000000, fun _ => .clear⟩,
  ⟨"PERMUTE", 0xFFFFFFFF, 0x10000000, fun _ => .permute⟩,
  ⟨"ROUND", 0xFFFFFFE0, 0x11000000, fun w => .round (idxField w)⟩,
  ⟨"THETA", 0xFFFFFFFF, 0x12000000, fun _ => .theta⟩,
  ⟨"RHO", 0xFFFFFFFF, 0x13000000, fun _ => .rho⟩,
  ⟨"PI", 0xFFFFFFFF, 0x14000000, fun _ => .pi⟩,
  ⟨"CHI", 0xFFFFFFFF, 0x15000000, fun _ => .chi⟩,
  ⟨"IOTA", 0xFFFFFFE0, 0x16000000, fun w => .iota (idxField w)⟩,
  ⟨"WRS", 0xFFFF0000, 0x18000000, fun w => .wrs (addrField w) (imm8Field w)⟩,
  ⟨"RDS", 0xFFFF00FF, 0x19000000, fun w => .rds (addrField w)⟩]

/-- Is the opcode field one of the 15 opcodes (R74)? Every row's mask covers bits 31:24. -/
def knownOpcode (w : CommandWord) : Bool :=
  opcodeTable.any fun r => opField r.pattern == opField w

/-- The decoder (R73), total on the 2^32 words: the first row that matches (at most one does), else the reason why the word
is illegal, the unknown opcode before the reserved bits (R164). -/
def decode (w : CommandWord) : Except DecodeError Instr :=
  match opcodeTable.find? (fun r => r.matches w) with
  | some r => .ok (r.assemble w)
  | none => .error (if knownOpcode w then .reservedBits else .unknownOpcode)

/-- Format N: no operand (R70). -/
def encodeN (op : BitVec 8) : CommandWord := op ++ 0#24

/-- Format I: `idx` in bits 4:0 (R70). -/
def encodeI (op : BitVec 8) (idx : BitVec 5) : CommandWord := op ++ 0#19 ++ idx

/-- The encoder, from the formats of R70 and the opcodes of R72. -/
def encode : Instr → CommandWord
  | .init mode cap => 0x01#8 ++ 0#5 ++ mode ++ cap
  | .absorb imm8 => 0x02#8 ++ 0#16 ++ imm8
  | .final => encodeN 0x03
  | .squeeze => encodeN 0x04
  | .stat => encodeN 0x05
  | .clear => encodeN 0x06
  | .permute => encodeN 0x10
  | .round idx => encodeI 0x11 idx
  | .theta => encodeN 0x12
  | .rho => encodeN 0x13
  | .pi => encodeN 0x14
  | .chi => encodeN 0x15
  | .iota idx => encodeI 0x16 idx
  | .wrs addr imm8 => 0x18#8 ++ 0#8 ++ addr ++ imm8
  | .rds addr => 0x19#8 ++ 0#8 ++ addr ++ 0#8

/-- The instruction the decoder reads from the table's word: `nbits` bits of `w`, every bit above them 0. A command is one
32-bit word with bit 0 its least significant bit (R9, R70), which is the table's own numbering. -/
def decodeTableWord (nbits w : Nat) : Option Instr :=
  match decode (BitVec.ofNat 32 (w % 2 ^ nbits)) with
  | .ok i => some i
  | .error _ => none

end Sys2Proof
end

