-- ==== Sys2Proof/Machine/State.lean ====
section
/-! DEFINITION. The machine's state as plain data (10_state.md R20 to R37), the reset state, and the reasons a step can stop. -/

namespace Sys2Proof.Machine

/-- The register MODE (R25), 3 bits in the hardware: the six algorithms of R2. The codes 0 to 5 stand in Machine/Operands.lean
(`Mode.code`). The values 6 and 7 are never held (R25) and are no value of this type: DESIGN CHOICE, log entry 4, safe. -/
inductive Mode where
  | shake128
  | shake256
  | sha3x224
  | sha3x256
  | sha3x384
  | sha3x512
  deriving DecidableEq, Repr

/-- The register PHASE (R26), 2 bits in the hardware; codes 0, 1, 2 in Machine/Operands.lean (`Phase.code`). The value 3 is
never held (R26) and is no value of this type: DESIGN CHOICE, log entry 4, safe. -/
inductive Phase where
  | idle
  | absorb
  | squeeze
  deriving DecidableEq, Repr

/-- The status of a response (60_exceptions.md R160). -/
inductive Status where
  | ok
  | invalidLength
  /-- Code 2, kept out of use: nothing in the block gives it (R160). -/
  | ioError
  | illegalCommand
  | wrongPhase
  | badOperand
  | outputExhausted
  deriving DecidableEq, Repr

/-- What the host does at the block's inputs between two commands (70_reset_and_hazards.md R194). -/
inductive HostEvent where
  /-- Give one command word, any of the 2^32 (R194). -/
  | command (w : CommandWord)
  /-- Assert the reset input (R180). -/
  | reset
  deriving DecidableEq, Repr

/-- The whole state: the spec's tuple (A[0..24], MODE, PHASE, POS, OUTCNT), and the two ports as plain data. -/
structure State where
  /-- The 25 lanes A[0..24] (R20); the byte array S[0..199] is a view of them (20_memory.md R51). -/
  lanes : Lanes
  /-- MODE (R25). -/
  mode : Mode
  /-- PHASE (R26). -/
  phase : Phase
  /-- POS, 8 bits (R27). -/
  pos : BitVec 8
  /-- OUTCNT, 7 bits (R28). -/
  outcnt : BitVec 7
  /-- The MODEL's own field: what the host does next, first event first. It is no storage of the block (R35 b): DESIGN
  CHOICE, log entry 1, safe. -/
  hostInput : List HostEvent
  /-- The MODEL's own field: the response words given so far, oldest first. No command reads it (R35 c): DESIGN CHOICE, log
  entry 1, safe. -/
  responses : List ResponseWord
  deriving DecidableEq, Repr

/-- Why the machine stops with a fault. The spec has none ("No trap, no hang", 00_scope.md section 7), and no state that a run
reaches raises one. -/
inductive Fault where
  /-- Raised by ABSORB, FINAL and SQUEEZE when POS, used as an address, is 200 or more: no such state byte exists (R50). Only
  unreachable states have such a POS (R37), and no rule says what the core does there: safe, log entry 5. -/
  | noSuchStateByte
  deriving DecidableEq, Repr

/-- Why the model has no meaning. (A command that the BLOCK refuses is a next state with a status, R162, not one of these.) -/
inductive Refusal where
  /-- Raised by an arm of `exec` whose instruction has no meaning yet; no arm does: safe. -/
  | notModelled (mnemonic : String)
  deriving DecidableEq, Repr

/-- The machine right after reset (R36, R180), with nothing on the ports. -/
def State.reset : State where
  lanes := zeroLanes
  mode := .shake128
  phase := .idle
  pos := 0
  outcnt := 0
  hostInput := []
  responses := []

/-- The three outcomes of a command or a step. -/
abbrev Result := Host.Outcome State Fault Refusal

end Sys2Proof.Machine
end

