-- ==== Sys2Proof/Machine/Tables.lean ====
section
/-! DEFINITION. The constant tables of the hardware (10_state.md R29, R32, R33, R34): definitions, not state. -/

namespace Sys2Proof.Machine

/-- The lane with exactly these bits set. -/
def laneOfBits (positions : List Nat) : Lane := positions.foldl (fun v b => v ||| BitVec.twoPow 64 b) 0

/-- RC[0..23], each by the bits it sets: "Only bits 0, 1, 3, 7, 15, 31 and 63 of any `RC[i]` can be set" (R32). The spec's own
number stands beside each, and the statement ConstantTables says that they are equal. -/
def roundConstants : Vector Lane Config.roundCount := #v[
  laneOfBits [0],                             -- RC[0] = 0x0000000000000001
  laneOfBits [1, 7, 15],                      -- RC[1] = 0x0000000000008082
  laneOfBits [1, 3, 7, 15, 63],               -- RC[2] = 0x800000000000808A
  laneOfBits [15, 31, 63],                    -- RC[3] = 0x8000000080008000
  laneOfBits [0, 1, 3, 7, 15],                -- RC[4] = 0x000000000000808B
  laneOfBits [0, 31],                         -- RC[5] = 0x0000000080000001
  laneOfBits [0, 7, 15, 31, 63],              -- RC[6] = 0x8000000080008081
  laneOfBits [0, 3, 15, 63],                  -- RC[7] = 0x8000000000008009
  laneOfBits [1, 3, 7],                       -- RC[8] = 0x000000000000008A
  laneOfBits [3, 7],                          -- RC[9] = 0x0000000000000088
  laneOfBits [0, 3, 15, 31],                  -- RC[10] = 0x0000000080008009
  laneOfBits [1, 3, 31],                      -- RC[11] = 0x000000008000000A
  laneOfBits [0, 1, 3, 7, 15, 31],            -- RC[12] = 0x000000008000808B
  laneOfBits [0, 1, 3, 7, 63],                -- RC[13] = 0x800000000000008B
  laneOfBits [0, 3, 7, 15, 63],               -- RC[14] = 0x8000000000008089
  laneOfBits [0, 1, 15, 63],                  -- RC[15] = 0x8000000000008003
  laneOfBits [1, 15, 63],                     -- RC[16] = 0x8000000000008002
  laneOfBits [7, 63],                         -- RC[17] = 0x8000000000000080
  laneOfBits [1, 3, 15],                      -- RC[18] = 0x000000000000800A
  laneOfBits [1, 3, 31, 63],                  -- RC[19] = 0x800000008000000A
  laneOfBits [0, 7, 15, 31, 63],              -- RC[20] = 0x8000000080008081
  laneOfBits [7, 15, 63],                     -- RC[21] = 0x8000000000008080
  laneOfBits [0, 31],                         -- RC[22] = 0x0000000080000001
  laneOfBits [3, 15, 31, 63]]                 -- RC[23] = 0x8000000080008008

/-- RHO[0..24], by lane number (R33). -/
def rotationOffsets : Vector Nat Config.laneCount := #v[
  0, 1, 62, 28, 27,
  36, 44, 6, 55, 20,
  3, 10, 43, 25, 39,
  41, 45, 15, 21, 8,
  18, 2, 61, 56, 14]

/-- RATE in bytes (R29; the formula of R7 wins over the source's literals, 90_conflicts.md C1). -/
def Mode.rate : Mode → BitVec 8
  | .shake128 => 168
  | .shake256 => 136
  | .sha3x224 => 144
  | .sha3x256 => 136
  | .sha3x384 => 104
  | .sha3x512 => 72

/-- DSUF, the domain byte (R29). -/
def Mode.dsuf : Mode → Byte
  | .shake128 => 0x1F
  | .shake256 => 0x1F
  | .sha3x224 => 0x06
  | .sha3x256 => 0x06
  | .sha3x384 => 0x06
  | .sha3x512 => 0x06

/-- OUTLEN in bytes; none for the two extendable-output functions (R29). -/
def Mode.outlen : Mode → Option (BitVec 7)
  | .shake128 => none
  | .shake256 => none
  | .sha3x224 => some 28
  | .sha3x256 => some 32
  | .sha3x384 => some 48
  | .sha3x512 => some 64

/-- Address of the last byte of the rate part, RATE - 1 (R59, R132). -/
def Mode.lastAddress (m : Mode) : Fin Config.stateBytes :=
  ⟨m.rate.toNat - 1, by cases m <;> decide⟩

end Sys2Proof.Machine
end

