-- ==== Sys2Proof/Machine/Operands.lean ====
section
/-! DEFINITION. Operand forms (30_encoding.md R71, R75) and register codes (10_state.md R25, R26): each operand with a legal
range is turned into the value it selects, or into none outside the range. -/

namespace Sys2Proof.Machine

/-- The MODE code (R7, R25). -/
def Mode.code : Mode → BitVec 3
  | .shake128 => 0
  | .shake256 => 1
  | .sha3x224 => 2
  | .sha3x256 => 3
  | .sha3x384 => 4
  | .sha3x512 => 5

/-- The PHASE code (R26). -/
def Phase.code : Phase → BitVec 2
  | .idle => 0
  | .absorb => 1
  | .squeeze => 2

/-- The `mode` operand: 0 to 5 select an algorithm, 6 and 7 none (R71, R75). -/
def modeOperand (mode : BitVec 3) : Option Mode :=
  match mode.toNat with
  | 0 => some .shake128
  | 1 => some .shake256
  | 2 => some .sha3x224
  | 3 => some .sha3x256
  | 4 => some .sha3x384
  | 5 => some .sha3x512
  | _ => none

/-- The `idx` operand: a round index 0 to 23, none for 24 to 31 (R71, R75). -/
def roundOperand (idx : BitVec 5) : Option (Fin Config.roundCount) :=
  if h : idx.toNat < Config.roundCount then some ⟨idx.toNat, h⟩ else none

/-- An 8-bit address of the state byte array: 0 to 199 exist, the others do not and do not wrap (R50, R54). -/
def stateAddress (a : BitVec 8) : Option (Fin Config.stateBytes) :=
  if h : a.toNat < Config.stateBytes then some ⟨a.toNat, h⟩ else none

/-- The `addr` operand: none for 200 to 255 (R71, R75). -/
def addrOperand (addr : BitVec 8) : Option (Fin Config.stateBytes) := stateAddress addr

/-- Is the host's buffer too small for a fixed-output digest: `cap < OUTLEN`, unsigned (R127, R130)? Never in modes 0 and 1. -/
def capTooSmall (m : Mode) (cap : BitVec 16) : Bool :=
  match m.outlen with
  | some n => decide (cap.toNat < n.toNat)
  | none => false

end Sys2Proof.Machine
end

