-- ==== Sys2Proof/Machine/Flags.lean ====
section
/-! DEFINITION. The block has no flag register, no condition codes and no sticky error bit (10_state.md R31), so no flag is
computed anywhere. What it reports instead is computed here: the response word (30_encoding.md R78) and the status byte of
STAT (41_sponge.md R134). -/

namespace Sys2Proof.Machine

/-- The status code, 4 bits (60_exceptions.md R160). -/
def Status.code : Status → BitVec 4
  | .ok => 0
  | .invalidLength => 1
  | .ioError => 2
  | .illegalCommand => 3
  | .wrongPhase => 4
  | .badOperand => 5
  | .outputExhausted => 6

/-- Bits 15:12 zero, `status` in bits 11:8, `data` in bits 7:0 (R78). -/
def responseWord (st : Status) (d : Byte) : ResponseWord := 0#4 ++ st.code ++ d

/-- STAT's data byte: PHASE in bits 1:0, MODE in bits 4:2, bits 7:5 zero (R134). -/
def statusByte (m : Mode) (p : Phase) : Byte := 0#3 ++ m.code ++ p.code

end Sys2Proof.Machine
end

