-- ==== Sys2Proof/Machine/Keccak.lean ====
section
/-! DEFINITION. The permutation engine (40_permutation.md R90 to R99): lane arithmetic, the five step mappings, the round and
Keccak-f[1600]. Each mapping is a total function of the lanes as they were before the step (R99). The formulas and tables are
those of the spec's rules, which mark them as supplied from general knowledge of FIPS 202 (93_implementation_defined.md G1 to
G14): log entry 12. -/

namespace Sys2Proof.Machine.Keccak

/-- The lanes whose lane number `i` has the value `f i`, all 25 at once (R99). -/
def tabulate (f : Fin Config.laneCount → Lane) : Lanes := #v[
  f 0, f 1, f 2, f 3, f 4,
  f 5, f 6, f 7, f 8, f 9,
  f 10, f 11, f 12, f 13, f 14,
  f 15, f 16, f 17, f 18, f 19,
  f 20, f 21, f 22, f 23, f 24]

/-- Column `x` of lane number `i = x + 5*y` (R21). -/
def column (i : Fin Config.laneCount) : Fin 5 := ⟨i.val % 5, Nat.mod_lt _ (by decide)⟩

/-- Row `y` of lane number `i = x + 5*y` (R21). -/
def row (i : Fin Config.laneCount) : Fin 5 :=
  ⟨i.val / 5, Nat.div_lt_of_lt_mul i.isLt⟩

/-- The lane at column `x`, row `y`: `A[x,y] = A[x + 5*y]` (R21). Arithmetic on coordinates is that of `Fin 5`, modulo 5
(R10, R91). -/
def lane (A : Lanes) (x y : Fin 5) : Lane :=
  A[x.val + 5 * y.val]'(by have := x.isLt; have := y.isLt; simp only [Config.laneCount]; omega)

/-- The lanes whose lane at `(x, y)` has the value `f x y`, all 25 at once (R99). -/
def ofCoordinates (f : Fin 5 → Fin 5 → Lane) : Lanes := tabulate fun i => f (column i) (row i)

/-- ROL64: rotation left by `n mod 64` (R91). -/
def rol64 (v : Lane) (n : Nat) : Lane :=
  if n % 64 = 0 then v else (v <<< (n % 64)) ||| (v >>> (64 - n % 64))

/-- `C[x]`, the parity of column `x` (R92). -/
def columnParity (A : Lanes) (x : Fin 5) : Lane :=
  lane A x 0 ^^^ lane A x 1 ^^^ lane A x 2 ^^^ lane A x 3 ^^^ lane A x 4

/-- `D[x] = C[(x+4) mod 5] ^ ROL64(C[(x+1) mod 5], 1)` (R92). -/
def thetaEffect (A : Lanes) (x : Fin 5) : Lane :=
  columnParity A (x + 4) ^^^ rol64 (columnParity A (x + 1)) 1

/-- theta (R92). -/
def theta (A : Lanes) : Lanes := ofCoordinates fun x y => lane A x y ^^^ thetaEffect A x

/-- rho (R93). -/
def rho (A : Lanes) : Lanes := tabulate fun i => rol64 A[i] rotationOffsets[i]

/-- pi (R94). -/
def pi (A : Lanes) : Lanes := ofCoordinates fun x y => lane A (x + 3 * y) x

/-- chi (R95). -/
def chi (A : Lanes) : Lanes :=
  ofCoordinates fun x y => lane A x y ^^^ (~~~(lane A (x + 1) y) &&& lane A (x + 2) y)

/-- iota for a round index 0 to 23 (R96). -/
def iota (A : Lanes) (i : Fin Config.roundCount) : Lanes := A.set 0 (A[0] ^^^ roundConstants[i])

/-- One round: theta, rho, pi, chi, iota in this order (R97). -/
def round (A : Lanes) (i : Fin Config.roundCount) : Lanes := iota (chi (pi (rho (theta A)))) i

/-- The round indices in the order a permutation runs them: 0, 1, ..., 23 (R98). -/
def roundIndices : List (Fin Config.roundCount) :=
  [0, 1, 2, 3, 4, 5, 6, 7, 8, 9, 10, 11, 12, 13, 14, 15, 16, 17, 18, 19, 20, 21, 22, 23]

/-- KECCAK_F, the permutation Keccak-f[1600]: exactly 24 rounds (R98). -/
def keccakF (A : Lanes) : Lanes := roundIndices.foldl round A

/-- The rotation counts of the combined rho-and-pi loop, in its order (R99). -/
def loopRotations : List Nat :=
  [1, 3, 6, 10, 15, 21, 28, 36, 45, 55, 2, 14, 27, 41, 56, 8, 25, 43, 62, 18, 39, 61, 20, 44]

/-- The lane numbers the combined rho-and-pi loop writes, in its order (R99). -/
def loopLanes : List (Fin Config.laneCount) :=
  [10, 7, 11, 17, 18, 3, 5, 16, 8, 21, 24, 4, 15, 23, 19, 13, 12, 2, 20, 14, 22, 9, 6, 1]

/-- The combined rho-and-pi loop from `(A, t)`: `u = A[j]; A[j] = ROL64(t, r); t = u` for each `(j, r)` (R99). -/
def rhoPiLoop : List (Fin Config.laneCount × Nat) → Lanes → Lane → Lanes
  | [], A, _ => A
  | (j, r) :: more, A, t => rhoPiLoop more (A.set j (rol64 t r)) A[j]

/-- The equivalent 24-entry formulation of `pi (rho A)`, one lane in flight, started with `t = A[1]` (R99). The machine does
not use it: the normative definition is R93 and R94. -/
def rhoPiInPlace (A : Lanes) : Lanes := rhoPiLoop (loopLanes.zip loopRotations) A A[1]

end Sys2Proof.Machine.Keccak
end

