-- ==== Sys2Proof/Machine/Ops.lean ====
section
/-! DEFINITION. The named operations over the state: the byte view of the lanes (20_memory.md R51, 00_scope.md R10), one
update per register, answering a command, refusing a command, and the checks that several commands share. -/

namespace Sys2Proof.Machine

/-- `S[a]`: byte `a` is bits `8*(a mod 8)+7 : 8*(a mod 8)` of lane `A[a div 8]` (R51). -/
def readByte (A : Lanes) (a : Fin Config.stateBytes) : Byte :=
  (A[a.val / 8]'(Nat.div_lt_of_lt_mul a.isLt)).extractLsb' (8 * (a.val % 8)) 8

/-- `S[a] <- v`: the eight bits of that byte are replaced, the other 56 bits of the lane and all other lanes are kept (R51,
R150). -/
def writeByte (A : Lanes) (a : Fin Config.stateBytes) (v : Byte) : Lanes :=
  A.set (a.val / 8)
    ((A[a.val / 8]'(Nat.div_lt_of_lt_mul a.isLt) &&& ~~~(0xFF#64 <<< (8 * (a.val % 8))))
      ||| (v.zeroExtend 64 <<< (8 * (a.val % 8))))
    (Nat.div_lt_of_lt_mul a.isLt)

/-- `S[a] <- S[a] ^ v` (R121, R131, R132). -/
def xorByte (A : Lanes) (a : Fin Config.stateBytes) (v : Byte) : Lanes :=
  writeByte A a (readByte A a ^^^ v)

/-- MemRead(a, n): the `n` bytes from `S[a]` on as one number, little-endian; only for `a + n <= 200` (R10). -/
def memRead (A : Lanes) (a : Nat) : Nat → Option Nat
  | 0 => if a ≤ Config.stateBytes then some 0 else none
  | n + 1 =>
    if h : a < Config.stateBytes then
      (memRead A (a + 1) n).map fun high => (readByte A ⟨a, h⟩).toNat + 256 * high
    else none

/-- MemWrite(a, n, v): `S[a+k] <- v[8k+7:8k]` for k below n; only for `a + n <= 200` (R10). -/
def memWrite (A : Lanes) (a : Nat) : Nat → Nat → Option Lanes
  | 0, _ => if a ≤ Config.stateBytes then some A else none
  | n + 1, v =>
    if h : a < Config.stateBytes then
      memWrite (writeByte A ⟨a, h⟩ (BitVec.ofNat 8 v)) (a + 1) n (v / 256)
    else none

/-- The lanes are replaced. -/
def State.setLanes (A : Lanes) (s : State) : State := { s with lanes := A }

/-- MODE is replaced. -/
def State.setMode (m : Mode) (s : State) : State := { s with mode := m }

/-- PHASE is replaced. -/
def State.setPhase (p : Phase) (s : State) : State := { s with phase := p }

/-- POS is replaced. -/
def State.setPos (a : BitVec 8) (s : State) : State := { s with pos := a }

/-- OUTCNT is replaced. -/
def State.setOutcnt (n : BitVec 7) (s : State) : State := { s with outcnt := n }

/-- One response word goes out, after those already given (R77). -/
def emit (st : Status) (d : Byte) (s : State) : State :=
  { s with responses := s.responses ++ [responseWord st d] }

/-- The command completes: status OK and the data byte (R10). -/
def respond (d : Byte) (s : State) : State := emit .ok d s

/-- What the spec has instead of taking an exception, `raise <Status>` (R10, R162): the response carries the status and a zero
data byte, and nothing else changes; nothing is saved anywhere and control goes nowhere. There is no return from it (R165):
the next command is executed normally. -/
def raise (st : Status) (s : State) : State := emit st 0 s

/-- The command ends completed in state `s`, answering `d`. -/
def complete (d : Byte) (s : State) : Result := .next (respond d s)

/-- The command is refused by the block with status `st` (R162): a next state, since the machine goes on. -/
def refuse (st : Status) (s : State) : Result := .next (raise st s)

/-- The phase check: outside phase `p` the command is refused with WrongPhase (R129, R161). -/
def inPhase (p : Phase) (s : State) (go : Result) : Result :=
  if s.phase = p then go else refuse .wrongPhase s

/-- POS used as an address (R59). In an unreachable state it may name no state byte: a fault, log entry 5. -/
def atPos (s : State) (go : Fin Config.stateBytes → Result) : Result :=
  match stateAddress s.pos with
  | some a => go a
  | none => .fault .noSuchStateByte

/-- The effect of the reset input and of CLEAR on the registers (R36, R135, R180): lanes, MODE, PHASE, POS and OUTCNT take
their reset values; the ports are untouched. -/
def clearRegisters (s : State) : State :=
  ((((s.setLanes zeroLanes).setMode .shake128).setPhase .idle).setPos 0).setOutcnt 0

/-- The registers at the start of an invocation in mode `m` (R24, R130). -/
def startInvocation (m : Mode) (s : State) : State :=
  ((((s.setLanes zeroLanes).setMode m).setPhase .absorb).setPos 0).setOutcnt 0

/-- The permutation runs on the lanes and POS restarts at 0: how ABSORB closes a block and SQUEEZE opens the next (R131,
R133). -/
def permuteBlock (s : State) : State := (s.setLanes (Keccak.keccakF s.lanes)).setPos 0

end Sys2Proof.Machine
end

