-- ==== Sys2Proof/Machine/Permutation.lean ====
section
/-! DEFINITION. The permutation commands (40_permutation.md R100 to R106), legal only in phase IDLE: PERMUTE, ROUND, THETA,
RHO, PI, CHI, IOTA. None changes MODE, PHASE, POS or OUTCNT. -/

namespace Sys2Proof.Machine

/-- A command that applies one function to all lanes, in phase IDLE (R100 to R103, R106). -/
def mapLanes (f : Lanes → Lanes) (s : State) : Result :=
  inPhase .idle s (complete 0 (s.setLanes (f s.lanes)))

/-- A command that applies a function of a round index, in phase IDLE; WrongPhase before BadOperand (R104, R105, R164). -/
def mapLanesAt (f : Lanes → Fin Config.roundCount → Lanes) (idx : BitVec 5) (s : State) : Result :=
  inPhase .idle s
    (match roundOperand idx with
      | none => refuse .badOperand s
      | some i => complete 0 (s.setLanes (f s.lanes i)))

/-- PERMUTE (R106). -/
def execPermute (s : State) : Result := mapLanes Keccak.keccakF s

/-- ROUND idx (R105). -/
def execRound (idx : BitVec 5) (s : State) : Result := mapLanesAt Keccak.round idx s

/-- THETA (R100). -/
def execTheta (s : State) : Result := mapLanes Keccak.theta s

/-- RHO (R101). -/
def execRho (s : State) : Result := mapLanes Keccak.rho s

/-- PI (R102). -/
def execPi (s : State) : Result := mapLanes Keccak.pi s

/-- CHI (R103). -/
def execChi (s : State) : Result := mapLanes Keccak.chi s

/-- IOTA idx (R104). -/
def execIota (idx : BitVec 5) (s : State) : Result := mapLanesAt Keccak.iota idx s

end Sys2Proof.Machine
end

