-- ==== Sys2Proof/Machine/RawAccess.lean ====
section
/-! DEFINITION. Raw state access (42_raw_access.md R150, R151), legal only in phase IDLE: WRS, RDS. -/

namespace Sys2Proof.Machine

/-- The checks WRS and RDS share: WrongPhase before BadOperand (R164), then the access at an existing address. -/
def atAddress (addr : BitVec 8) (s : State) (go : Fin Config.stateBytes → Result) : Result :=
  inPhase .idle s
    (match addrOperand addr with
      | none => refuse .badOperand s
      | some a => go a)

/-- WRS addr, imm8 (R150): it overwrites, it does not XOR. -/
def execWrs (addr : BitVec 8) (imm8 : Byte) (s : State) : Result :=
  atAddress addr s fun a => complete 0 (s.setLanes (writeByte s.lanes a imm8))

/-- RDS addr (R151): it changes no state. -/
def execRds (addr : BitVec 8) (s : State) : Result :=
  atAddress addr s fun a => complete (readByte s.lanes a) s

end Sys2Proof.Machine
end

