-- ==== Sys2Proof/Machine/Sponge.lean ====
section
/-! DEFINITION. The sponge commands (41_sponge.md R130 to R135): INIT, ABSORB, FINAL, SQUEEZE, STAT, CLEAR. -/

namespace Sys2Proof.Machine

/-- INIT mode, cap (R130): legal in every phase; BadOperand before InvalidLength (R164). -/
def execInit (mode : BitVec 3) (cap : BitVec 16) (s : State) : Result :=
  match modeOperand mode with
  | none => refuse .badOperand s
  | some m => if capTooSmall m cap then refuse .invalidLength s else complete 0 (startInvocation m s)

/-- One byte is XORed in at address `a` and POS advances (R131). -/
def absorbByte (a : Fin Config.stateBytes) (v : Byte) (s : State) : State :=
  (s.setLanes (xorByte s.lanes a v)).setPos (s.pos + 1)

/-- The eager permutation: it runs in the command that supplies the RATE-th byte of a block (R131). -/
def closeBlock (s : State) : State := if s.pos = s.mode.rate then permuteBlock s else s

/-- ABSORB imm8 (R131). -/
def execAbsorb (imm8 : Byte) (s : State) : Result :=
  inPhase .absorb s (atPos s fun a => complete 0 (closeBlock (absorbByte a imm8 s)))

/-- FINAL's two XORs: the domain byte at POS, then 0x80 on the last byte of the block, which may be the same byte (R132). -/
def padLanes (m : Mode) (a : Fin Config.stateBytes) (A : Lanes) : Lanes :=
  xorByte (xorByte A a m.dsuf) m.lastAddress 0x80

/-- The registers FINAL leaves, with the padding absorbed at address `a` (R132). -/
def finishAbsorb (a : Fin Config.stateBytes) (s : State) : State :=
  (((s.setLanes (Keccak.keccakF (padLanes s.mode a s.lanes))).setPos 0).setOutcnt 0).setPhase .squeeze

/-- FINAL (R132). -/
def execFinal (s : State) : Result :=
  inPhase .absorb s (atPos s fun a => complete 0 (finishAbsorb a s))

/-- Have all OUTLEN bytes of a fixed-output digest been given (R133, R160)? Never in modes 0 and 1. -/
def outputDone (s : State) : Bool :=
  match s.mode.outlen with
  | some n => decide (s.outcnt = n)
  | none => false

/-- The lazy permutation: it runs when a byte is asked for after the block is used up (R133). -/
def openBlock (s : State) : State := if s.pos = s.mode.rate then permuteBlock s else s

/-- POS advances, and in modes 2 to 5 OUTCNT too (R133). -/
def countOutput (s : State) : State :=
  match s.mode.outlen with
  | some _ => (s.setPos (s.pos + 1)).setOutcnt (s.outcnt + 1)
  | none => s.setPos (s.pos + 1)

/-- Give the byte at POS and count it (R133). -/
def giveByte (s : State) : Result :=
  atPos s fun a => complete (readByte s.lanes a) (countOutput s)

/-- SQUEEZE (R133). -/
def execSqueeze (s : State) : Result :=
  inPhase .squeeze s (if outputDone s then refuse .outputExhausted s else giveByte (openBlock s))

/-- STAT (R134): legal in every phase, changes nothing. -/
def execStat (s : State) : Result := complete (statusByte s.mode s.phase) s

/-- CLEAR (R135): legal in every phase. -/
def execClear (s : State) : Result := complete 0 (clearRegisters s)

end Sys2Proof.Machine
end

