-- ==== Sys2Proof/Machine/Dispatch.lean ====
section
/-! DEFINITION. exec: one arm per command, one direct call of its meaning. -/

namespace Sys2Proof.Machine

def exec (i : Instr) (s : State) : Host.Outcome State Fault Refusal :=
  match i with
  | .init mode cap => Sys2Proof.Machine.execInit mode cap s
  | .absorb imm8 => Sys2Proof.Machine.execAbsorb imm8 s
  | .final => Sys2Proof.Machine.execFinal s
  | .squeeze => Sys2Proof.Machine.execSqueeze s
  | .stat => Sys2Proof.Machine.execStat s
  | .clear => Sys2Proof.Machine.execClear s
  | .permute => Sys2Proof.Machine.execPermute s
  | .round idx => Sys2Proof.Machine.execRound idx s
  | .theta => Sys2Proof.Machine.execTheta s
  | .rho => Sys2Proof.Machine.execRho s
  | .pi => Sys2Proof.Machine.execPi s
  | .chi => Sys2Proof.Machine.execChi s
  | .iota idx => Sys2Proof.Machine.execIota idx s
  | .wrs addr imm8 => Sys2Proof.Machine.execWrs addr imm8 s
  | .rds addr => Sys2Proof.Machine.execRds addr s

end Sys2Proof.Machine
end

