-- ==== Sys2Proof/Machine/Port.lean ====
section
/-! DEFINITION. The block's inputs (60_exceptions.md R170, 70_reset_and_hazards.md R180, R194): what a step takes from the
host, the effect of the reset input, and the answer to an illegal word. Step.lean only calls these. -/

namespace Sys2Proof.Machine

/-- The host's next event and the state in which the rest of its events stand, or none while the host gives nothing. -/
def takeEvent (s : State) : Option (HostEvent × State) :=
  match s.hostInput with
  | [] => none
  | e :: rest => some (e, { s with hostInput := rest })

/-- The reset input: every register takes its reset value and no response word is produced (R180). -/
def applyReset (s : State) : State := clearRegisters s

/-- An illegal word is refused with IllegalCommand in every phase and changes nothing (R74, R162). -/
def illegalWord (s : State) : State := raise .illegalCommand s

/-- `s` with the command word `w` as the host's next event. -/
def placeCommand (w : CommandWord) (s : State) : State := { s with hostInput := .command w :: s.hostInput }

end Sys2Proof.Machine
end

