-- ==== Sys2Proof/Machine/Step.lean ====
section
/-! DEFINITION. One step: the block takes the host's next event and handles it whole, as one atomic step (20_memory.md R56,
92_eei_decisions.md D1). While the host gives nothing the block does nothing (70_reset_and_hazards.md R181): the step answers
the same state. DEDUCED, log entry 2, safe. -/

namespace Sys2Proof.Machine

def step (s : State) : Host.Outcome State Fault Refusal :=
  match takeEvent s with
  | none => .next s
  | some (.reset, t) => .next (applyReset t)
  | some (.command w, t) =>
    match decode w with
    | .ok i => exec i t
    | .error _ => .next (illegalWord t)

/-- `s` with the table's word as the host's next command, so that the next step runs it (log entry 3). The bits above `nbits`
are 0, and a command is one 32-bit word (R70). -/
def State.withFetchWord (s : State) (nbits w : Nat) : State :=
  placeCommand (BitVec.ofNat 32 (w % 2 ^ nbits)) s

end Sys2Proof.Machine
end

