-- ==== Sys2Proof/Machine/Contract.lean ====
section
/-! DEFINITION. The sponge as functions on whole blocks (41_sponge.md R120 to R126): what the byte-serial commands compute
(R128). The machine does not call them; the statements compare it with them. The lengths are those the rules ask for: an index
is below RATE, so the functions are used only where every byte address is below 200. -/

namespace Sys2Proof.Machine

/-- `S[p]` for a natural number `p` below 200; no rule uses it elsewhere, and 0 stands there only to make it total. -/
def byteAt (A : Lanes) (p : Nat) : Byte :=
  if h : p < Config.stateBytes then readByte A ⟨p, h⟩ else 0

/-- `S[p] <- S[p] ^ v` for `p` below 200; no rule uses it elsewhere. -/
def xorAt (A : Lanes) (p : Nat) (v : Byte) : Lanes :=
  if h : p < Config.stateBytes then xorByte A ⟨p, h⟩ v else A

/-- Bytes XORed into the state from address `p` on: the loop of R121. -/
def xorBytes (A : Lanes) (p : Nat) : List Byte → Lanes
  | [] => A
  | b :: more => xorBytes (xorAt A p b) (p + 1) more

/-- absorb_block(A, B) for a block `B` of RATE bytes: XOR it into the first RATE bytes of the state, then permute (R121). -/
def absorbBlock (A : Lanes) (B : List Byte) : Lanes := Keccak.keccakF (xorBytes A 0 B)

/-- pad(T, d) for a tail shorter than `rate`: the domain byte after the tail, zero fill, and bit 7 of the last byte set, in the
same byte as the domain byte when the tail leaves room for one byte only (R122). -/
def pad (rate : Nat) (T : List Byte) (d : Byte) : List Byte :=
  (T ++ d :: List.replicate (rate - 1 - T.length) 0).modify (rate - 1) (· ||| 0x80)

/-- The first `q` whole blocks of `M` absorbed in rising order (R123). -/
def absorbWholeBlocks (rate : Nat) : Nat → Lanes → List Byte → Lanes
  | 0, A, _ => A
  | q + 1, A, M => absorbWholeBlocks rate q (absorbBlock A (M.take rate)) (M.drop rate)

/-- absorb_all(M) in mode `m`, from the all-zero state: `n div RATE` whole blocks, then always one padded block (R123). -/
def absorbAll (m : Mode) (M : List Byte) : Lanes :=
  let rate := m.rate.toNat
  let q := M.length / rate
  absorbBlock (absorbWholeBlocks rate q zeroLanes M) (pad rate (M.drop (q * rate)) m.dsuf)

/-- The loop of squeeze from lanes `A` at position `p`: the next `k` output bytes, and the lanes and position after them (R124,
R125). A permutation runs only when a further byte is wanted after a whole block. -/
def squeezeFrom (rate : Nat) : Nat → Lanes → Nat → List Byte × Lanes × Nat
  | 0, A, p => ([], A, p)
  | k + 1, A, p =>
    let (A', p') := if p = rate then (Keccak.keccakF A, 0) else (A, p)
    let (Z, A'', p'') := squeezeFrom rate k A' (p' + 1)
    (byteAt A' p' :: Z, A'', p'')

/-- squeeze(A, k) in mode `m` (R124). -/
def squeezeAll (m : Mode) (A : Lanes) (k : Nat) : List Byte := (squeezeFrom m.rate.toNat k A 0).1

/-- HASH(mode, M, k) (R126); in the fixed-output modes `k` is at most OUTLEN (R128). -/
def hash (m : Mode) (M : List Byte) (k : Nat) : List Byte := squeezeAll m (absorbAll m M) k

end Sys2Proof.Machine
end

