-- ==== Sys2Proof/Machine/Sequences.lean ====
section
/-! DEFINITION. The command sequences and the text forms that the spec gives beside the commands (30_encoding.md R79, R80;
42_raw_access.md R152): assembler conveniences, not commands. -/

namespace Sys2Proof.Machine

/-- The mnemonic of a command (R72). -/
def mnemonicOf : Instr → String
  | .init _ _ => "INIT"
  | .absorb _ => "ABSORB"
  | .final => "FINAL"
  | .squeeze => "SQUEEZE"
  | .stat => "STAT"
  | .clear => "CLEAR"
  | .permute => "PERMUTE"
  | .round _ => "ROUND"
  | .theta => "THETA"
  | .rho => "RHO"
  | .pi => "PI"
  | .chi => "CHI"
  | .iota _ => "IOTA"
  | .wrs _ _ => "WRS"
  | .rds _ => "RDS"

/-- The operands of a command as numbers, in the order of R72. -/
def operandsOf : Instr → List Nat
  | .init mode cap => [mode.toNat, cap.toNat]
  | .absorb imm8 => [imm8.toNat]
  | .round idx => [idx.toNat]
  | .iota idx => [idx.toNat]
  | .wrs addr imm8 => [addr.toNat, imm8.toNat]
  | .rds addr => [addr.toNat]
  | .final => []
  | .squeeze => []
  | .stat => []
  | .clear => []
  | .permute => []
  | .theta => []
  | .rho => []
  | .pi => []
  | .chi => []

/-- Assembler text of a command: the mnemonic in capitals, then the operands in decimal, separated by commas (R79). -/
def assemblyText (i : Instr) : String :=
  match operandsOf i with
  | [] => mnemonicOf i
  | ns => mnemonicOf i ++ " " ++ ", ".intercalate (ns.map toString)

/-- The name that may stand for a mode number (R79). -/
def modeName : Mode → String
  | .shake128 => "SHAKE128"
  | .shake256 => "SHAKE256"
  | .sha3x224 => "SHA3_224"
  | .sha3x256 => "SHA3_256"
  | .sha3x384 => "SHA3_384"
  | .sha3x512 => "SHA3_512"

/-- ABSORBS: one ABSORB per byte (R80). -/
def absorbCommands (msg : List Byte) : List Instr := msg.map .absorb

/-- SQUEEZEN k: SQUEEZE k times (R80). -/
def squeezeCommands (k : Nat) : List Instr := List.replicate k .squeeze

/-- The INIT of a digest of `k` output bytes in mode `m`: `cap = min(k, 65535)` (R80). -/
def digestInit (m : Mode) (k : Nat) : Instr := .init m.code (BitVec.ofNat 16 (min k 65535))

/-- How many bytes a digest gives: the caller's `k` for the extendable-output functions, OUTLEN for the fixed ones (R80). -/
def digestLength (m : Mode) (k : Nat) : Nat :=
  match m.outlen with
  | some n => n.toNat
  | none => k

/-- The six digest functions as command sequences (R80): INIT, ABSORB of each byte, FINAL, SQUEEZE of each output byte. (Where
the status of INIT is not OK the host stops after it.) -/
def digestCommands (m : Mode) (k : Nat) (msg : List Byte) : List Instr :=
  digestInit m k :: (absorbCommands msg ++ .final :: squeezeCommands (digestLength m k))

/-- WRLANE i, v: the eight WRS of a whole lane (R152). -/
def writeLaneCommands (i : Fin Config.laneCount) (v : Lane) : List Instr :=
  (List.range 8).map fun k => .wrs (BitVec.ofNat 8 (8 * i.val + k)) (v.extractLsb' (8 * k) 8)

/-- RDLANE i: the eight RDS of a whole lane (R152). -/
def readLaneCommands (i : Fin Config.laneCount) : List Instr :=
  (List.range 8).map fun k => .rds (BitVec.ofNat 8 (8 * i.val + k))

/-- The commands as the host gives them on the port. -/
def asEvents (l : List Instr) : List HostEvent := l.map fun i => .command (encode i)

end Sys2Proof.Machine
end

