-- ==== Sys2Proof/Safety.lean ====
section
/-! DEFINITION. What the statements speak of: the invariants of the reachable states (10_state.md R37), safe outcomes, the
phase table (41_sponge.md R129), the table and order of the refusals (60_exceptions.md R161, R164), the reserved bits
(30_encoding.md R74), and the states that differ only where a command cannot see. Each table is written from the spec's own
table, not from the meanings. -/

namespace Sys2Proof.Machine

/-- R37 (c) to (g). (a) and (b) are in the types of PHASE and MODE (log entry 4). -/
structure State.Inv (s : State) : Prop where
  idle : s.phase = .idle → s.mode = .shake128 ∧ s.pos = 0 ∧ s.outcnt = 0
  absorb : s.phase = .absorb → s.pos.toNat + 1 ≤ s.mode.rate.toNat ∧ s.outcnt = 0
  squeeze : s.phase = .squeeze → s.pos.toNat ≤ s.mode.rate.toNat
  counted : ∀ n, s.phase = .squeeze → s.mode.outlen = some n →
    s.outcnt.toNat = s.pos.toNat ∧ s.pos.toNat ≤ n.toNat ∧ n.toNat < s.mode.rate.toNat
  unbounded : s.mode.outlen = none → s.outcnt = 0

/-- The outcome is a next state: no fault and no model refusal. -/
def Runs (r : Result) : Prop := ∃ t, r = .next t

/-- The fields of a response word (R78): bits 11:8. -/
def statusField (r : ResponseWord) : BitVec 4 := r.extractLsb' 8 4

/-- Bits 7:0 of a response word (R78). -/
def dataField (r : ResponseWord) : Byte := r.extractLsb' 0 8

/-- A word the block can give: bits 15:12 zero, one of the six statuses in use, zero data with every status but OK (R78,
R160). -/
def LegalResponse (r : ResponseWord) : Prop :=
  r.extractLsb' 12 4 = 0 ∧
  statusField r ∈ [0, 1, 3, 4, 5, 6] ∧
  (statusField r ≠ 0 → dataField r = 0)

/-- The registers agree; the ports may differ. -/
structure SameRegisters (s t : State) : Prop where
  lanes : s.lanes = t.lanes
  mode : s.mode = t.mode
  phase : s.phase = t.phase
  pos : s.pos = t.pos
  outcnt : s.outcnt = t.outcnt

/-- The states agree in everything but the capacity bytes `S[RATE..199]` (R58). -/
structure SameButCapacity (s t : State) : Prop where
  rateBytes : ∀ a : Fin Config.stateBytes, a.val < s.mode.rate.toNat → readByte s.lanes a = readByte t.lanes a
  mode : s.mode = t.mode
  phase : s.phase = t.phase
  pos : s.pos = t.pos
  outcnt : s.outcnt = t.outcnt
  hostInput : s.hostInput = t.hostInput
  responses : s.responses = t.responses

/-- May the command be given in this phase (R129)? -/
def legalIn : Instr → Phase → Bool
  | .init _ _, _ => true
  | .stat, _ => true
  | .clear, _ => true
  | .absorb _, p => p == .absorb
  | .final, p => p == .absorb
  | .squeeze, p => p == .squeeze
  | .permute, p => p == .idle
  | .round _, p => p == .idle
  | .theta, p => p == .idle
  | .rho, p => p == .idle
  | .pi, p => p == .idle
  | .chi, p => p == .idle
  | .iota _, p => p == .idle
  | .wrs _ _, p => p == .idle
  | .rds _, p => p == .idle

/-- The phase after a completed command (R129). -/
def phaseAfter : Instr → Phase → Phase
  | .init _ _, _ => .absorb
  | .final, _ => .squeeze
  | .clear, _ => .idle
  | .absorb _, p => p
  | .squeeze, p => p
  | .stat, p => p
  | .permute, p => p
  | .round _, p => p
  | .theta, p => p
  | .rho, p => p
  | .pi, p => p
  | .chi, p => p
  | .iota _, p => p
  | .wrs _ _, p => p
  | .rds _, p => p

/-- INIT's length condition, in numbers (R130): OUTLEN(2..5) = 28, 32, 48, 64. -/
def lengthInvalid : Instr → Bool
  | .init mode cap =>
    (mode == 2 && decide (cap.toNat < 28)) || (mode == 3 && decide (cap.toNat < 32)) ||
    (mode == 4 && decide (cap.toNat < 48)) || (mode == 5 && decide (cap.toNat < 64))
  | _ => false

/-- SQUEEZE's output condition, in numbers (R160): MODE in 2..5 and OUTCNT = OUTLEN. -/
def outputExhausted (i : Instr) (s : State) : Bool :=
  i == .squeeze &&
    ((s.mode == .sha3x224 && s.outcnt == 28) || (s.mode == .sha3x256 && s.outcnt == 32) ||
     (s.mode == .sha3x384 && s.outcnt == 48) || (s.mode == .sha3x512 && s.outcnt == 64))

/-- The status with which a command is refused, the first that holds in the order of R164, or none (R161). (IllegalCommand, the
first of that order, is decided by the decoder: such a word is no instruction.) -/
def refusalOf (i : Instr) (s : State) : Option Status :=
  if legalIn i s.phase = false then some .wrongPhase
  else if i.wellFormed = false then some .badOperand
  else if lengthInvalid i then some .invalidLength
  else if outputExhausted i s then some .outputExhausted
  else none

/-- The reserved operand bits of an opcode, none for an unassigned opcode (the columns of R161). -/
def reservedBits (op : BitVec 8) : Option CommandWord :=
  if op = 0x01 then some 0x00F80000
  else if op = 0x02 then some 0x00FFFF00
  else if op = 0x11 ∨ op = 0x16 then some 0x00FFFFE0
  else if op = 0x18 then some 0x00FF0000
  else if op = 0x19 then some 0x00FF00FF
  else if op ∈ [0x03, 0x04, 0x05, 0x06, 0x10, 0x12, 0x13, 0x14, 0x15] then some 0x00FFFFFF
  else none

/-- How the words of one opcode decode: those that match the row give its command with the operands taken from the word, and
those with the row's opcode and a reserved bit set are illegal (R72, R74). -/
def DecodesAs (mask pattern : CommandWord) (assemble : CommandWord → Instr) : Prop :=
  (∀ w, w &&& mask = pattern → decode w = .ok (assemble w)) ∧
  (∀ w, w.extractLsb' 24 8 = pattern.extractLsb' 24 8 → w &&& mask ≠ pattern → decode w = .error .reservedBits)

/-- The lane number of column `x`, row `y` (R21). -/
def laneNumber (x y : Fin 5) : Fin 25 := ⟨x.val + 5 * y.val, by have := x.isLt; have := y.isLt; omega⟩

/-- PI_SRC (R94). -/
def piSource : Vector (Fin Config.laneCount) Config.laneCount :=
  #v[0, 6, 12, 18, 24, 3, 9, 10, 16, 22, 1, 7, 13, 19, 20, 4, 5, 11, 17, 23, 2, 8, 14, 15, 21]

/-- The 8-bit LFSR of R32 as a list of bits R[0..7]: one step. -/
def lfsrStep (r : List Bool) : List Bool :=
  match r with
  | [r0, r1, r2, r3, r4, r5, r6, r7] => [r7, r0, r1, r2, r3 ^^ r7, r4 ^^ r7, r5 ^^ r7, r6]
  | _ => r

/-- The LFSR's output bits: `rc(t)` for `t` below `n`, from the list of bits `r` (R32). -/
def lfsrBits : Nat → List Bool → List Bool
  | 0, _ => []
  | n + 1, r => r.headD false :: lfsrBits n (lfsrStep r)

/-- `RC[i]` as R32's generator gives it: bit `2^j - 1` is `rc(j + 7*i)`, every other bit 0. -/
def generatedConstant (bits : List Bool) (i : Nat) : Lane :=
  (List.range 7).foldl (fun v j => if (bits.drop (j + 7 * i)).headD false then v ||| (1#64 <<< (2 ^ j - 1)) else v) 0

/-- R33's walk over the lanes, from `(x, y)` at step `t`, for `n` steps: lane number and offset of each. -/
def offsetWalk : Nat → Nat → Nat → Nat → List (Nat × Nat)
  | 0, _, _, _ => []
  | n + 1, t, x, y =>
    (x + 5 * y, (t + 1) * (t + 2) / 2 % 64) :: offsetWalk n (t + 1) y ((2 * x + 3 * y) % 5)

end Sys2Proof.Machine
end

