-- ==== Sys2Proof/Certificates/Slice0/Obligations.lean ====
section
/-! DEFINITION. The statements for the provers, from the numbered rules of spec/. A statement about `exec` whose conclusion is
`= .next …` gives the whole next state, so it says the result, the frame and the completion at once. Where a statement says
`respond d …` the command completes and answers `d`; where it says `raise st …` the block refuses it with the status `st`
(00_scope.md R10). -/

open Sys2Proof Sys2Proof.Machine

/-! ### Encoding and decoding -/

/-- Words written out from the spec's encodings decode to the commands they stand for (30_encoding.md R79 and
95_test_vectors.md V1 to V18). -/
def Obligations.ListedWordsDecode : Prop :=
  decode 0x01030020 = .ok (.init 3 32) ∧
  decode 0x0105FFFF = .ok (.init 5 65535) ∧
  decode 0x02000061 = .ok (.absorb 0x61) ∧
  decode 0x03000000 = .ok .final ∧
  decode 0x04000000 = .ok .squeeze ∧
  decode 0x11000017 = .ok (.round 23) ∧
  decode 0x16000000 = .ok (.iota 0) ∧
  decode 0x1800C780 = .ok (.wrs 199 0x80) ∧
  decode 0x19000800 = .ok (.rds 8) ∧
  decode 0x00000000 = .error .unknownOpcode ∧
  decode 0xFFFFFFFF = .error .unknownOpcode ∧
  decode 0x17000000 = .error .unknownOpcode ∧
  decode 0x03000001 = .error .reservedBits ∧
  decode 0x01080000 = .error .reservedBits ∧
  decode 0x19000001 = .error .reservedBits

/-- Decoding an encoded instruction gives it back, for every instruction and every operand value. -/
def Obligations.DecodeOfEncode : Prop :=
  ∀ i : Instr, decode (encode i) = .ok i

/-- The decoder is total and exact (R73, R74): a word with an unassigned opcode, or with a known opcode and a reserved operand
bit set, is illegal, and every other word is exactly the encoding of the instruction it decodes to. At most one row of the opcode
table matches a word. -/
def Obligations.DecoderIsExact : Prop :=
  (opcodeTable.Pairwise fun r q => ∀ w : CommandWord, ¬ (w &&& r.mask = r.pattern ∧ w &&& q.mask = q.pattern)) ∧
  ∀ w : CommandWord,
    (reservedBits (w.extractLsb' 24 8) = none → decode w = .error .unknownOpcode) ∧
    (∀ m, reservedBits (w.extractLsb' 24 8) = some m → w &&& m ≠ 0 → decode w = .error .reservedBits) ∧
    (∀ m, reservedBits (w.extractLsb' 24 8) = some m → w &&& m = 0 → ∃ i, decode w = .ok i ∧ encode i = w)

/-! ### The step, reset and the ports -/

/-- A command word that decodes runs: the step is `exec` of the instruction, on the state whose host events are the remaining
ones. Nothing else is added around `exec` (no program counter, R30). -/
def Obligations.StepRunsDecodedCommand : Prop :=
  ∀ (s : State) (w : CommandWord) (rest : List HostEvent) (i : Instr),
    s.hostInput = .command w :: rest → decode w = .ok i → step s = exec i { s with hostInput := rest }

/-- An illegal word is refused with IllegalCommand in every phase and changes no state, and the all-zero and the all-one word
are illegal (R74). -/
def Obligations.IllegalWordIsRefused : Prop :=
  (∀ (s : State) (w : CommandWord) (rest : List HostEvent),
    s.hostInput = .command w :: rest →
    (reservedBits (w.extractLsb' 24 8) = none ∨ ∃ m, reservedBits (w.extractLsb' 24 8) = some m ∧ w &&& m ≠ 0) →
    step s = .next { s with hostInput := rest, responses := s.responses ++ [0x0300] }) ∧
  reservedBits ((0 : CommandWord).extractLsb' 24 8) = none ∧
  reservedBits ((0xFFFFFFFF : CommandWord).extractLsb' 24 8) = none

/-- Reset (R180): every register takes its reset value, no response word is produced, and CLEAR has the same effect on the
state, the difference being only its response. -/
def Obligations.ResetInputAndClear : Prop :=
  (∀ (s : State) (rest : List HostEvent), s.hostInput = .reset :: rest →
    step s = .next { State.reset with hostInput := rest, responses := s.responses }) ∧
  (∀ s : State, exec .clear s =
    .next { State.reset with hostInput := s.hostInput, responses := s.responses ++ [0x0000] })

/-- The table of reset values, and the commands that also set them (R36). -/
def Obligations.ResetValues : Prop :=
  ((∀ i : Fin 25, State.reset.lanes[i] = 0) ∧ State.reset.mode.code = 0 ∧ State.reset.phase.code = 0 ∧
    State.reset.pos = 0 ∧ State.reset.outcnt = 0) ∧
  (∀ s t : State, exec .clear s = .next t →
    (∀ i : Fin 25, t.lanes[i] = 0) ∧ t.mode.code = 0 ∧ t.phase.code = 0 ∧ t.pos = 0 ∧ t.outcnt = 0) ∧
  (∀ (s t : State) (mode : BitVec 3) (cap : BitVec 16), exec (.init mode cap) s = .next t →
    t.responses = s.responses ++ [0x0000] → (∀ i : Fin 25, t.lanes[i] = 0) ∧ t.pos = 0 ∧ t.outcnt = 0) ∧
  (∀ s t : State, s.phase = .absorb → exec .final s = .next t → t.pos = 0 ∧ t.outcnt = 0)

/-- While the host gives nothing the block does nothing (R181: "after reset the block does nothing until it is given a
command"). That a step then answers the same state is the model's reading: log entry 2. -/
def Obligations.IdleBlockWaits : Prop :=
  ∀ s : State, s.hostInput = [] → step s = .next s

/-- Every command word, legal or not, produces exactly one response word, after those already given, in the same step, and the
remaining host events stand as they were (R77); the block never gives a response without a command. The word has bits 15:12
zero, a status of R160 in use, and zero data with every status but OK. -/
def Obligations.OneResponsePerCommand : Prop :=
  (∀ (s t : State) (w : CommandWord) (rest : List HostEvent),
    s.hostInput = .command w :: rest → step s = .next t →
    t.hostInput = rest ∧ ∃ r, t.responses = s.responses ++ [r] ∧ LegalResponse r) ∧
  (∀ (s t : State), (s.hostInput = [] ∨ ∃ rest, s.hostInput = .reset :: rest) → step s = .next t →
    t.responses = s.responses)

/-- The response word is `(status << 8) | data`, the two fields read back, a refused command answers one of five words, and a
completed one other than SQUEEZE, RDS and STAT answers 0x0000 (R78; the data of those three stand in their own statements). The
seven status codes are those of R160. -/
def Obligations.ResponseWordLayout : Prop :=
  (Status.ok.code = 0 ∧ Status.invalidLength.code = 1 ∧ Status.ioError.code = 2 ∧ Status.illegalCommand.code = 3 ∧
    Status.wrongPhase.code = 4 ∧ Status.badOperand.code = 5 ∧ Status.outputExhausted.code = 6) ∧
  (∀ (st : Status) (d : Byte),
    responseWord st d = (st.code.zeroExtend 16 <<< 8 ||| d.zeroExtend 16) ∧
    statusField (responseWord st d) = st.code ∧ dataField (responseWord st d) = d) ∧
  (∀ (i : Instr) (s t : State) (r : ResponseWord), exec i s = .next t → t.responses = s.responses ++ [r] →
    (statusField r ≠ 0 → r ∈ [0x0100, 0x0300, 0x0400, 0x0500, 0x0600]) ∧
    (statusField r = 0 → i ≠ .squeeze → i ≠ .stat → (∀ addr, i ≠ .rds addr) → r = 0x0000))

/-! ### The constant tables -/

/-- The constant tables: MODE code, RATE, DSUF and OUTLEN of each mode (R29, with every RATE a multiple of 8 and every OUTLEN
below RATE), the PHASE codes (R26); RC as the table of R32 prints it and as its LFSR generates it, and RHO as the walk of R33
generates it. -/
def Obligations.ConstantTables : Prop :=
  (Mode.shake128.code = 0 ∧ Mode.shake128.rate = 168 ∧ Mode.shake128.dsuf = 0x1F ∧ Mode.shake128.outlen = none) ∧
  (Mode.shake256.code = 1 ∧ Mode.shake256.rate = 136 ∧ Mode.shake256.dsuf = 0x1F ∧ Mode.shake256.outlen = none) ∧
  (Mode.sha3x224.code = 2 ∧ Mode.sha3x224.rate = 144 ∧ Mode.sha3x224.dsuf = 0x06 ∧ Mode.sha3x224.outlen = some 28) ∧
  (Mode.sha3x256.code = 3 ∧ Mode.sha3x256.rate = 136 ∧ Mode.sha3x256.dsuf = 0x06 ∧ Mode.sha3x256.outlen = some 32) ∧
  (Mode.sha3x384.code = 4 ∧ Mode.sha3x384.rate = 104 ∧ Mode.sha3x384.dsuf = 0x06 ∧ Mode.sha3x384.outlen = some 48) ∧
  (Mode.sha3x512.code = 5 ∧ Mode.sha3x512.rate = 72 ∧ Mode.sha3x512.dsuf = 0x06 ∧ Mode.sha3x512.outlen = some 64) ∧
  (Phase.idle.code = 0 ∧ Phase.absorb.code = 1 ∧ Phase.squeeze.code = 2) ∧
  roundConstants[0] = 0x0000000000000001 ∧
  roundConstants[1] = 0x0000000000008082 ∧
  roundConstants[2] = 0x800000000000808A ∧
  roundConstants[3] = 0x8000000080008000 ∧
  roundConstants[4] = 0x000000000000808B ∧
  roundConstants[5] = 0x0000000080000001 ∧
  roundConstants[6] = 0x8000000080008081 ∧
  roundConstants[7] = 0x8000000000008009 ∧
  roundConstants[8] = 0x000000000000008A ∧
  roundConstants[9] = 0x0000000000000088 ∧
  roundConstants[10] = 0x0000000080008009 ∧
  roundConstants[11] = 0x000000008000000A ∧
  roundConstants[12] = 0x000000008000808B ∧
  roundConstants[13] = 0x800000000000008B ∧
  roundConstants[14] = 0x8000000000008089 ∧
  roundConstants[15] = 0x8000000000008003 ∧
  roundConstants[16] = 0x8000000000008002 ∧
  roundConstants[17] = 0x8000000000000080 ∧
  roundConstants[18] = 0x000000000000800A ∧
  roundConstants[19] = 0x800000008000000A ∧
  roundConstants[20] = 0x8000000080008081 ∧
  roundConstants[21] = 0x8000000000008080 ∧
  roundConstants[22] = 0x0000000080000001 ∧
  roundConstants[23] = 0x8000000080008008 ∧
  (∀ m : Mode, m.rate.toNat % 8 = 0) ∧ (∀ (m : Mode) (n : BitVec 7), m.outlen = some n → n.toNat < m.rate.toNat) ∧
  (∀ i : Fin 24, roundConstants[i] =
    generatedConstant (lfsrBits 168 [true, false, false, false, false, false, false, false]) i.val) ∧
  (∀ p ∈ offsetWalk 24 0 1 0, rotationOffsets[p.1]? = some p.2) ∧ rotationOffsets[0] = 0

/-! ### Lane arithmetic, the step mappings, the round and the permutation -/

/-- ROL64 (R91): bit `z` becomes bit `(z + n) mod 64`, and the four laws. -/
def Obligations.RotationLaws : Prop :=
  (∀ (v : Lane) (n z : Nat), z < 64 → (Keccak.rol64 v n).getLsbD ((z + n) % 64) = v.getLsbD z) ∧
  (∀ v : Lane, Keccak.rol64 v 0 = v) ∧
  (∀ v : Lane, Keccak.rol64 v 64 = v) ∧
  (∀ (v : Lane) (a b : Nat), Keccak.rol64 (Keccak.rol64 v a) b = Keccak.rol64 v (a + b)) ∧
  (∀ (v u : Lane) (n : Nat), Keccak.rol64 (v ^^^ u) n = Keccak.rol64 v n ^^^ Keccak.rol64 u n)

/-- theta (R92), written out at every coordinate, and its corner case: it changes nothing where every column has even
parity. -/
def Obligations.ThetaFormula : Prop :=
  (∀ (A : Lanes) (x y : Fin 5),
    let C : Fin 5 → Lane := fun x => A[laneNumber x 0] ^^^ A[laneNumber x 1] ^^^ A[laneNumber x 2] ^^^
      A[laneNumber x 3] ^^^ A[laneNumber x 4]
    (Keccak.theta A)[laneNumber x y] = A[laneNumber x y] ^^^ (C (x + 4) ^^^ Keccak.rol64 (C (x + 1)) 1)) ∧
  (∀ A : Lanes, (∀ x : Fin 5, A[laneNumber x 0] ^^^ A[laneNumber x 1] ^^^ A[laneNumber x 2] ^^^ A[laneNumber x 3] ^^^
      A[laneNumber x 4] = 0) → Keccak.theta A = A)

/-- rho (R93) with the offsets of R33, and lane [0,0] unchanged. -/
def Obligations.RhoFormula : Prop :=
  (∀ (A : Lanes) (i : Fin 25), (Keccak.rho A)[i] = Keccak.rol64 A[i]
    ([0, 1, 62, 28, 27, 36, 44, 6, 55, 20, 3, 10, 43, 25, 39, 41, 45, 15, 21, 8, 18, 2, 61, 56, 14].getD i.val 0)) ∧
  (∀ A : Lanes, (Keccak.rho A)[0] = A[0])

/-- pi (R94): the formula, where each lane moves to, the table PI_SRC, lane [0,0] in its place and the other 24 in one
cycle. -/
def Obligations.PiFormula : Prop :=
  (∀ (A : Lanes) (x y : Fin 5), (Keccak.pi A)[laneNumber x y] = A[laneNumber (x + 3 * y) x]) ∧
  (∀ (A : Lanes) (x y : Fin 5), (Keccak.pi A)[laneNumber y (2 * x + 3 * y)] = A[laneNumber x y]) ∧
  (∀ (A : Lanes) (i : Fin 25), (Keccak.pi A)[i] = A[piSource[i]]) ∧
  piSource[0] = 0 ∧
  (∀ j : Fin 25, j ≠ 0 → ∃ k < 24, (fun i : Fin 25 => piSource[i])^[k] 1 = j)

/-- chi (R95), written out at every coordinate, and its two corner cases. -/
def Obligations.ChiFormula : Prop :=
  (∀ (A : Lanes) (x y : Fin 5), (Keccak.chi A)[laneNumber x y] =
    A[laneNumber x y] ^^^ (~~~ A[laneNumber (x + 1) y] &&& A[laneNumber (x + 2) y])) ∧
  Keccak.chi (Vector.replicate 25 0) = Vector.replicate 25 0 ∧
  Keccak.chi (Vector.replicate 25 (BitVec.allOnes 64)) = Vector.replicate 25 (BitVec.allOnes 64)

/-- iota (R96): the round constant into lane [0,0], the other lanes as before, and twice is nothing. -/
def Obligations.IotaFormula : Prop :=
  ∀ (A : Lanes) (i : Fin 24),
    (Keccak.iota A i)[0] = A[0] ^^^ roundConstants[i] ∧
    (∀ j : Fin 25, j ≠ 0 → (Keccak.iota A i)[j] = A[j]) ∧
    Keccak.iota (Keccak.iota A i) i = A

/-- The permutation is exactly 24 rounds, each the five steps in order, with the indices 0 to 23 rising (R97, R98). -/
def Obligations.PermutationIsTwentyFourRounds : Prop :=
  (∀ (A : Lanes) (i : Fin 24), Keccak.round A i =
    Keccak.iota (Keccak.chi (Keccak.pi (Keccak.rho (Keccak.theta A)))) i) ∧
  (∀ (A : Lanes) (seq : Nat → Lanes), seq 0 = A → (∀ i : Fin 24, seq (i.val + 1) = Keccak.round (seq i.val) i) →
    Keccak.keccakF A = seq 24)

/-- The 24-entry loop with one lane in flight computes pi after rho, on every state (R99). -/
def Obligations.RhoPiLoopIsPiAfterRho : Prop :=
  ∀ A : Lanes, Keccak.rhoPiInPlace A = Keccak.pi (Keccak.rho A)

/-- theta, rho, pi, chi, iota, each round and KECCAK_F are bijections on the 1600-bit states (R107, which the spec marks as
general knowledge). -/
def Obligations.EngineIsBijective : Prop :=
  Function.Bijective Keccak.theta ∧ Function.Bijective Keccak.rho ∧ Function.Bijective Keccak.pi ∧
  Function.Bijective Keccak.chi ∧ (∀ i, Function.Bijective fun A => Keccak.iota A i) ∧
  (∀ i, Function.Bijective fun A => Keccak.round A i) ∧ Function.Bijective Keccak.keccakF

/-! ### The byte view -/

/-- The byte view and the lanes (R51): byte `a` is eight bits of lane `a div 8`, and lane `i` is MemRead(8*i, 8). -/
def Obligations.BytesAreLittleEndianLanes : Prop :=
  (∀ (A : Lanes) (a : Fin 200) (j : Nat), j < 8 →
    (readByte A a).getLsbD j = (A[a.val / 8]'(Nat.div_lt_of_lt_mul a.isLt)).getLsbD (8 * (a.val % 8) + j)) ∧
  (∀ (A : Lanes) (i : Fin 25), memRead A (8 * i.val) 8 = some A[i].toNat)

/-- MemRead after MemWrite of `n` bytes gives the low `8n` bits of the value written, wherever both are defined (R10). -/
def Obligations.MemReadAfterMemWrite : Prop :=
  ∀ (A : Lanes) (a n v : Nat), a + n ≤ 200 →
    ∃ B, memWrite A a n v = some B ∧ memRead B a n = some (v % 256 ^ n)

/-! ### The commands: encoding, legal phase, refusals, effect, one statement per command -/

/-- INIT (R130). -/
def Obligations.InitStartsInvocation : Prop :=
  DecodesAs 0xFFF80000 0x01000000 (fun w => .init (w.extractLsb' 16 3) (w.extractLsb' 0 16)) ∧
  ∀ (s : State) (mode : BitVec 3) (cap : BitVec 16),
    (5 < mode.toNat → exec (.init mode cap) s = .next (raise .badOperand s)) ∧
    ∀ m : Mode, mode = m.code →
      ((∃ n, m.outlen = some n ∧ cap.toNat < n.toNat) →
        exec (.init mode cap) s = .next (raise .invalidLength s)) ∧
      ((∀ n, m.outlen = some n → n.toNat ≤ cap.toNat) →
        exec (.init mode cap) s = .next (respond 0
          { s with lanes := Vector.replicate 25 0, mode := m, phase := .absorb, pos := 0, outcnt := 0 }))

/-- ABSORB (R131), at every POS that is an address; elsewhere `PosOutsideArrayFaults`. -/
def Obligations.AbsorbTakesOneByte : Prop :=
  DecodesAs 0xFFFFFF00 0x02000000 (fun w => .absorb (w.extractLsb' 0 8)) ∧
  ∀ (s : State) (v : Byte),
    (s.phase ≠ .absorb → exec (.absorb v) s = .next (raise .wrongPhase s)) ∧
    (s.phase = .absorb → ∀ a : Fin 200, a.val = s.pos.toNat →
      let A := writeByte s.lanes a (readByte s.lanes a ^^^ v)
      exec (.absorb v) s = .next (respond 0
        (if s.pos + 1 = s.mode.rate then { s with lanes := Keccak.keccakF A, pos := 0 }
         else { s with lanes := A, pos := s.pos + 1 })))

/-- FINAL (R132), at every POS that is an address: the domain byte at POS, then 0x80 on byte RATE - 1 (the same byte when
POS = RATE - 1), the permutation, and the squeeze phase. -/
def Obligations.FinalPadsAndPermutes : Prop :=
  DecodesAs 0xFFFFFFFF 0x03000000 (fun _ => .final) ∧
  ∀ s : State,
    (s.phase ≠ .absorb → exec .final s = .next (raise .wrongPhase s)) ∧
    (s.phase = .absorb → ∀ a e : Fin 200, a.val = s.pos.toNat → e.val + 1 = s.mode.rate.toNat →
      let A := writeByte s.lanes a (readByte s.lanes a ^^^ s.mode.dsuf)
      let B := writeByte A e (readByte A e ^^^ 0x80)
      exec .final s = .next (respond 0
        { s with lanes := Keccak.keccakF B, pos := 0, outcnt := 0, phase := .squeeze }))

/-- SQUEEZE (R133), at every POS that is an address: refused once a fixed-output digest is given; a permutation first when
POS = RATE; then the byte at POS, POS + 1, and OUTCNT + 1 in the fixed-output modes. -/
def Obligations.SqueezeGivesOneByte : Prop :=
  DecodesAs 0xFFFFFFFF 0x04000000 (fun _ => .squeeze) ∧
  ∀ s : State,
    (s.phase ≠ .squeeze → exec .squeeze s = .next (raise .wrongPhase s)) ∧
    (s.phase = .squeeze → s.mode.outlen = some s.outcnt → exec .squeeze s = .next (raise .outputExhausted s)) ∧
    (s.phase = .squeeze → s.mode.outlen ≠ some s.outcnt →
      let count : BitVec 7 := if 2 ≤ s.mode.code.toNat then s.outcnt + 1 else s.outcnt
      (s.pos = s.mode.rate →
        exec .squeeze s = .next (respond (readByte (Keccak.keccakF s.lanes) 0)
          { s with lanes := Keccak.keccakF s.lanes, pos := 1, outcnt := count })) ∧
      (s.pos ≠ s.mode.rate → ∀ a : Fin 200, a.val = s.pos.toNat →
        exec .squeeze s = .next (respond (readByte s.lanes a) { s with pos := s.pos + 1, outcnt := count })))

/-- STAT (R134): legal in every phase, `data = MODE << 2 | PHASE`, nothing changes. -/
def Obligations.StatReadsControlState : Prop :=
  DecodesAs 0xFFFFFFFF 0x05000000 (fun _ => .stat) ∧
  ∀ s : State, exec .stat s =
    .next (respond (s.mode.code.zeroExtend 8 <<< 2 ||| s.phase.code.zeroExtend 8) s)

/-- CLEAR (R135): legal in every phase, the result is the reset state. -/
def Obligations.ClearWipesState : Prop :=
  DecodesAs 0xFFFFFFFF 0x06000000 (fun _ => .clear) ∧
  ∀ s : State, exec .clear s = .next (respond 0
    { s with lanes := Vector.replicate 25 0, mode := .shake128, phase := .idle, pos := 0, outcnt := 0 })

/-- PERMUTE (R106). -/
def Obligations.PermuteRunsPermutation : Prop :=
  DecodesAs 0xFFFFFFFF 0x10000000 (fun _ => .permute) ∧
  ∀ s : State,
    (s.phase ≠ .idle → exec .permute s = .next (raise .wrongPhase s)) ∧
    (s.phase = .idle → exec .permute s = .next (respond 0 { s with lanes := Keccak.keccakF s.lanes }))

/-- ROUND idx (R105). -/
def Obligations.RoundRunsOneRound : Prop :=
  DecodesAs 0xFFFFFFE0 0x11000000 (fun w => .round (w.extractLsb' 0 5)) ∧
  ∀ (s : State) (idx : BitVec 5),
    (s.phase ≠ .idle → exec (.round idx) s = .next (raise .wrongPhase s)) ∧
    (s.phase = .idle → 23 < idx.toNat → exec (.round idx) s = .next (raise .badOperand s)) ∧
    (s.phase = .idle → ∀ i : Fin 24, i.val = idx.toNat →
      exec (.round idx) s = .next (respond 0 { s with lanes := Keccak.round s.lanes i }))

/-- THETA (R100). -/
def Obligations.ThetaCommand : Prop :=
  DecodesAs 0xFFFFFFFF 0x12000000 (fun _ => .theta) ∧
  ∀ s : State,
    (s.phase ≠ .idle → exec .theta s = .next (raise .wrongPhase s)) ∧
    (s.phase = .idle → exec .theta s = .next (respond 0 { s with lanes := Keccak.theta s.lanes }))

/-- RHO (R101). Its corner case, that 64 times RHO restores every lane, is the spec's own inference ("derived: ROL64(v, 64*r) =
v, rule R91"). -/
def Obligations.RhoCommand : Prop :=
  DecodesAs 0xFFFFFFFF 0x13000000 (fun _ => .rho) ∧
  ∀ s : State,
    (s.phase ≠ .idle → exec .rho s = .next (raise .wrongPhase s)) ∧
    (s.phase = .idle → exec .rho s = .next (respond 0 { s with lanes := Keccak.rho s.lanes })) ∧
    Keccak.rho^[64] s.lanes = s.lanes

/-- PI (R102). Its corner case, that 24 times PI restores the state, is the spec's own inference ("derived: the 24-cycle of rule
R94"). -/
def Obligations.PiCommand : Prop :=
  DecodesAs 0xFFFFFFFF 0x14000000 (fun _ => .pi) ∧
  ∀ s : State,
    (s.phase ≠ .idle → exec .pi s = .next (raise .wrongPhase s)) ∧
    (s.phase = .idle → exec .pi s = .next (respond 0 { s with lanes := Keccak.pi s.lanes })) ∧
    Keccak.pi^[24] s.lanes = s.lanes

/-- CHI (R103). -/
def Obligations.ChiCommand : Prop :=
  DecodesAs 0xFFFFFFFF 0x15000000 (fun _ => .chi) ∧
  ∀ s : State,
    (s.phase ≠ .idle → exec .chi s = .next (raise .wrongPhase s)) ∧
    (s.phase = .idle → exec .chi s = .next (respond 0 { s with lanes := Keccak.chi s.lanes }))

/-- IOTA idx (R104). -/
def Obligations.IotaCommand : Prop :=
  DecodesAs 0xFFFFFFE0 0x16000000 (fun w => .iota (w.extractLsb' 0 5)) ∧
  ∀ (s : State) (idx : BitVec 5),
    (s.phase ≠ .idle → exec (.iota idx) s = .next (raise .wrongPhase s)) ∧
    (s.phase = .idle → 23 < idx.toNat → exec (.iota idx) s = .next (raise .badOperand s)) ∧
    (s.phase = .idle → ∀ i : Fin 24, i.val = idx.toNat →
      exec (.iota idx) s = .next (respond 0 { s with lanes := Keccak.iota s.lanes i }))

/-- WRS addr, imm8 (R150): it overwrites byte `addr` and keeps the other 56 bits of its lane and all other lanes. -/
def Obligations.WrsWritesOneByte : Prop :=
  DecodesAs 0xFFFF0000 0x18000000 (fun w => .wrs (w.extractLsb' 8 8) (w.extractLsb' 0 8)) ∧
  ∀ (s : State) (addr : BitVec 8) (v : Byte),
    (s.phase ≠ .idle → exec (.wrs addr v) s = .next (raise .wrongPhase s)) ∧
    (s.phase = .idle → 199 < addr.toNat → exec (.wrs addr v) s = .next (raise .badOperand s)) ∧
    (s.phase = .idle → ∀ a : Fin 200, a.val = addr.toNat →
      ∃ B : Lanes, exec (.wrs addr v) s = .next (respond 0 { s with lanes := B }) ∧
        ∀ (i : Fin 25) (j : Nat), j < 64 → B[i].getLsbD j =
          if i.val = addr.toNat / 8 ∧ 8 * (addr.toNat % 8) ≤ j ∧ j ≤ 8 * (addr.toNat % 8) + 7
          then v.getLsbD (j - 8 * (addr.toNat % 8)) else s.lanes[i].getLsbD j)

/-- RDS addr (R151): it answers byte `addr` and changes no state. -/
def Obligations.RdsReadsOneByte : Prop :=
  DecodesAs 0xFFFF00FF 0x19000000 (fun w => .rds (w.extractLsb' 8 8)) ∧
  ∀ (s : State) (addr : BitVec 8),
    (s.phase ≠ .idle → exec (.rds addr) s = .next (raise .wrongPhase s)) ∧
    (s.phase = .idle → 199 < addr.toNat → exec (.rds addr) s = .next (raise .badOperand s)) ∧
    (s.phase = .idle → ∀ a : Fin 200, a.val = addr.toNat →
      exec (.rds addr) s = .next (respond (readByte s.lanes a) s))

/-- ROUND idx is the five commands THETA, RHO, PI, CHI, IOTA idx in this order, and ROUND 0 to ROUND 23 are PERMUTE, on the
lanes (corner cases of R105, which the spec marks as derived). -/
def Obligations.RoundIsFiveStepCommands : Prop :=
  (∀ (s s1 s2 s3 s4 s5 : State) (idx : BitVec 5), s.phase = .idle → idx.toNat ≤ 23 →
    exec .theta s = .next s1 → exec .rho s1 = .next s2 → exec .pi s2 = .next s3 → exec .chi s3 = .next s4 →
    exec (.iota idx) s4 = .next s5 →
    ∃ t, exec (.round idx) s = .next t ∧ SameRegisters t s5) ∧
  (∀ (s : State) (rest : List HostEvent), s.phase = .idle →
    s.hostInput = asEvents ((List.range 24).map fun i => .round (BitVec.ofNat 5 i)) ++ rest →
    ∃ t u, core.run 24 s = .next t ∧ exec .permute s = .next u ∧ SameRegisters t u)

/-- Where ABSORB, FINAL and SQUEEZE stop: a POS of 200 or more names no state byte (R50). No run reaches such a state (R37) and
no rule says what the core does there; that the model faults is its choice, log entry 5. -/
def Obligations.PosOutsideArrayFaults : Prop :=
  ∀ s : State, 200 ≤ s.pos.toNat →
    (∀ v, s.phase = .absorb → exec (.absorb v) s = .fault .noSuchStateByte) ∧
    (s.phase = .absorb → exec .final s = .fault .noSuchStateByte) ∧
    (s.phase = .squeeze → s.mode.outlen ≠ some s.outcnt → exec .squeeze s = .fault .noSuchStateByte)

/-! ### Frames -/

/-- Frame of PERMUTE, ROUND, THETA, RHO, PI, CHI, IOTA (R23): none changes MODE, PHASE, POS, OUTCNT or the host's events; only
one response is added; IOTA changes no lane but lane 0, and RHO, PI leave lane 0. -/
def Obligations.EngineCommandsFrame : Prop :=
  ∀ (s t : State) (idx : BitVec 5) (i : Instr),
    i ∈ [.permute, .round idx, .theta, .rho, .pi, .chi, .iota idx] → exec i s = .next t →
    t.mode = s.mode ∧ t.phase = s.phase ∧ t.pos = s.pos ∧ t.outcnt = s.outcnt ∧ t.hostInput = s.hostInput ∧
    (∃ r, t.responses = s.responses ++ [r]) ∧
    (i = .iota idx → ∀ j : Fin 25, j ≠ 0 → t.lanes[j] = s.lanes[j]) ∧
    (i = .rho ∨ i = .pi → t.lanes[0] = s.lanes[0]) ∧
    (s.phase ≠ .idle → t.lanes = s.lanes)

/-- Frame of WRS, RDS and STAT (R23): RDS and STAT change no register and no byte; WRS changes no register, and every byte but
the one at its address reads as before. -/
def Obligations.RawAccessFrame : Prop :=
  (∀ (s t : State) (addr : BitVec 8) (i : Instr), i ∈ [.rds addr, .stat] → exec i s = .next t →
    SameRegisters s t ∧ t.hostInput = s.hostInput ∧ ∃ r, t.responses = s.responses ++ [r]) ∧
  (∀ (s t : State) (addr : BitVec 8) (v : Byte), exec (.wrs addr v) s = .next t →
    t.mode = s.mode ∧ t.phase = s.phase ∧ t.pos = s.pos ∧ t.outcnt = s.outcnt ∧ t.hostInput = s.hostInput ∧
    (∃ r, t.responses = s.responses ++ [r]) ∧
    ∀ b : Fin 200, some b ≠ addrOperand addr → readByte t.lanes b = readByte s.lanes b)

/-- Frame of the sponge commands (R23, R59): ABSORB keeps MODE, PHASE and OUTCNT, and where it completes no block every byte
but the one at POS reads as before; SQUEEZE keeps MODE and PHASE, and every byte unless POS = RATE; FINAL keeps MODE; all six
keep the host's events and add one response. -/
def Obligations.SpongeCommandsFrame : Prop :=
  (∀ (s t : State) (v : Byte), exec (.absorb v) s = .next t →
    t.mode = s.mode ∧ t.phase = s.phase ∧ t.outcnt = s.outcnt ∧
    (s.pos + 1 ≠ s.mode.rate → ∀ a, stateAddress s.pos = some a →
      ∀ b : Fin 200, b ≠ a → readByte t.lanes b = readByte s.lanes b)) ∧
  (∀ s t : State, exec .squeeze s = .next t →
    t.mode = s.mode ∧ t.phase = s.phase ∧
    (s.mode.code.toNat < 2 → t.outcnt = s.outcnt) ∧
    (s.pos ≠ s.mode.rate → ∀ b : Fin 200, readByte t.lanes b = readByte s.lanes b)) ∧
  (∀ s t : State, exec .final s = .next t → t.mode = s.mode) ∧
  (∀ (s t : State) (mode : BitVec 3) (cap : BitVec 16) (v : Byte) (i : Instr),
    i ∈ [.init mode cap, .absorb v, .final, .squeeze, .stat, .clear] → exec i s = .next t →
    t.hostInput = s.hostInput ∧ ∃ r, t.responses = s.responses ++ [r])

/-- The capacity part is changed only by permutations (R58). An ABSORB that completes no block leaves every byte from RATE on. An
ABSORB that completes one, and FINAL, permute lanes in which every byte from RATE on is as before. A SQUEEZE leaves the lanes, or
permutes them as they are. -/
def Obligations.CapacityOnlyPermuted : Prop :=
  (∀ (s t : State) (v : Byte), s.Inv → exec (.absorb v) s = .next t → s.pos + 1 ≠ s.mode.rate →
    ∀ b : Fin 200, s.mode.rate.toNat ≤ b.val → readByte t.lanes b = readByte s.lanes b) ∧
  (∀ (s t : State) (v : Byte) (a : Fin 200), s.Inv → s.phase = .absorb → a.val = s.pos.toNat →
    s.pos + 1 = s.mode.rate → exec (.absorb v) s = .next t →
    t.lanes = Keccak.keccakF (xorByte s.lanes a v) ∧
    ∀ b : Fin 200, s.mode.rate.toNat ≤ b.val → readByte (xorByte s.lanes a v) b = readByte s.lanes b) ∧
  (∀ (s t : State) (a : Fin 200), s.Inv → s.phase = .absorb → a.val = s.pos.toNat → exec .final s = .next t →
    t.lanes = Keccak.keccakF (padLanes s.mode a s.lanes) ∧
    ∀ b : Fin 200, s.mode.rate.toNat ≤ b.val → readByte (padLanes s.mode a s.lanes) b = readByte s.lanes b) ∧
  (∀ s t : State, exec .squeeze s = .next t →
    (s.pos ≠ s.mode.rate → t.lanes = s.lanes) ∧ (t.lanes = s.lanes ∨ t.lanes = Keccak.keccakF s.lanes))

/-! ### Refusals, phases and the whole machine -/

/-- Which command is refused with what, and the order of the checks (R161, R164): a command is refused with the first
condition that holds. Where none holds it answers with status OK (R160), and from every state with the invariants it does
complete. A word that is no command is refused before all of them. -/
def Obligations.RefusalsInOrder : Prop :=
  (∀ (s : State) (w : CommandWord) (rest : List HostEvent) (e : DecodeError),
    s.hostInput = .command w :: rest → decode w = .error e →
    step s = .next (raise .illegalCommand { s with hostInput := rest })) ∧
  ∀ (i : Instr) (s : State),
    (∀ st, refusalOf i s = some st → exec i s = .next (raise st s)) ∧
    (refusalOf i s = none → ∀ t, exec i s = .next t → ∃ d, t.responses = s.responses ++ [responseWord .ok d]) ∧
    (refusalOf i s = none → s.Inv → ∃ t d, exec i s = .next t ∧ t.responses = s.responses ++ [responseWord .ok d])

/-- A refused command changes no architectural state, its response is `(status << 8) | 0x00`, and the next command stands as it
stood (R162). -/
def Obligations.RefusedCommandChangesNothing : Prop :=
  ∀ (s t : State) (w : CommandWord) (rest : List HostEvent) (r : ResponseWord),
    s.hostInput = .command w :: rest → step s = .next t → t.responses = s.responses ++ [r] → statusField r ≠ 0 →
    SameRegisters s t ∧ t.hostInput = rest ∧ r = (statusField r).zeroExtend 16 <<< 8

/-- The phase table (R129): out of its phase a command is refused with WrongPhase; a completed command leaves the phase of the
table; a refused one never changes the phase. -/
def Obligations.PhaseTransitions : Prop :=
  ∀ (i : Instr) (s : State),
    (legalIn i s.phase = false → exec i s = .next (raise .wrongPhase s)) ∧
    (∀ t r, exec i s = .next t → t.responses = s.responses ++ [r] →
      (statusField r = 0 → legalIn i s.phase = true ∧ t.phase = phaseAfter i s.phase) ∧
      (statusField r ≠ 0 → t.phase = s.phase))

/-- The invariants hold at reset (R37). -/
def Obligations.InvariantAtReset : Prop := State.reset.Inv

/-- Every step keeps the invariants (R37), from every state that has them, whatever the host does. -/
def Obligations.StepKeepsInvariant : Prop :=
  ∀ s t : State, s.Inv → step s = .next t → t.Inv

/-- Under the invariants POS and OUTCNT stay below 168 and 64 inclusive (R127), and POS used as an address stays in the rate
part. -/
def Obligations.CountersStayBounded : Prop :=
  ∀ s : State, s.Inv →
    s.pos.toNat ≤ 168 ∧ s.outcnt.toNat ≤ 64 ∧ (s.phase = .absorb → s.pos.toNat < s.mode.rate.toNat)

/-- From every state with the invariants every step runs: whatever the host gives, no fault and no model refusal (R191: "Every
command terminates"; R107). -/
def Obligations.EveryStepRuns : Prop :=
  ∀ s : State, s.Inv → Runs (step s)

/-- The state after a command and its response depend only on the registers before it and the command word (R193): not on what
the host does later, nor on the responses already given. -/
def Obligations.CommandsAreDeterministic : Prop :=
  ∀ (w : CommandWord) (s s' t : State) (more later : List HostEvent), SameRegisters s t →
    s.hostInput = .command w :: more → t.hostInput = .command w :: later → step s = .next s' →
    ∃ t' r, step t = .next t' ∧ SameRegisters s' t' ∧
      s'.responses = s.responses ++ [r] ∧ t'.responses = t.responses ++ [r]

/-- No lane value of one invocation is visible to the next (R24): after a completed INIT, a CLEAR or a reset nothing depends on
the registers before. -/
def Obligations.InvocationsAreIsolated : Prop :=
  ∀ (s t : State), s.hostInput = t.hostInput → s.responses = t.responses →
    (∀ (m : Mode) (cap : BitVec 16), exec (.init m.code cap) s = exec (.init m.code cap) t ∨
      (∃ n, m.outlen = some n ∧ cap.toNat < n.toNat)) ∧
    exec .clear s = exec .clear t ∧
    (∀ rest, s.hostInput = .reset :: rest → step s = step t)

/-- During an invocation the host never sees the capacity bytes (R35, R60): two states that differ only there answer every
command word alike, unless it is a SQUEEZE that permutes first. -/
def Obligations.CapacityBytesAreHidden : Prop :=
  ∀ (s t s' : State) (w : CommandWord) (rest : List HostEvent),
    s.Inv → s.phase ≠ .idle → SameButCapacity s t → s.hostInput = .command w :: rest →
    ¬ (w = 0x04000000 ∧ s.phase = .squeeze ∧ s.pos = s.mode.rate) →
    step s = .next s' → ∃ t', step t = .next t' ∧ t'.responses = s'.responses

/-- Side effects of reads (R57): RDS and STAT twice answer the same twice; WRS twice is WRS once; two successive SQUEEZE
commands that run advance POS both times, so they never read the same position of a block twice. -/
def Obligations.ReadsAndWritesRepeat : Prop :=
  (∀ (s t u : State) (addr : BitVec 8) (i : Instr), i ∈ [.rds addr, .stat] → exec i s = .next t → exec i t = .next u →
    SameRegisters t u ∧ ∃ r, t.responses = s.responses ++ [r] ∧ u.responses = t.responses ++ [r]) ∧
  (∀ (s t u : State) (addr : BitVec 8) (v : Byte), exec (.wrs addr v) s = .next t → exec (.wrs addr v) t = .next u →
    SameRegisters t u) ∧
  (∀ (s t : State), s.phase = .squeeze → s.mode.outlen ≠ some s.outcnt → exec .squeeze s = .next t →
    t.pos = if s.pos = s.mode.rate then 1 else s.pos + 1)

/-- WRLANE and RDLANE (R152): in phase IDLE the eight WRS of a lane, in any order, set it, and the eight RDS read it, least
significant byte first. -/
def Obligations.WholeLaneSequences : Prop :=
  (∀ (s : State) (i : Fin 25) (v : Lane) (l : List Instr) (rest : List HostEvent),
    s.phase = .idle → l.Perm (writeLaneCommands i v) → s.hostInput = asEvents l ++ rest →
    core.run 8 s = .next { s with lanes := s.lanes.set i v, hostInput := rest, responses := s.responses ++ List.replicate 8 0 }) ∧
  (∀ (s : State) (i : Fin 25) (rest : List HostEvent),
    s.phase = .idle → s.hostInput = asEvents (readLaneCommands i) ++ rest →
    core.run 8 s = .next { s with
      hostInput := rest
      responses := s.responses ++ (List.range 8).map fun k => responseWord .ok (s.lanes[i].extractLsb' (8 * k) 8) })

/-! ### The sponge contracts -/

/-- The padded block (R122): RATE bytes, the tail, the domain byte right after it, zero fill, bit 7 of the last byte set, in the
domain byte itself when only one byte is left, where OR and XOR with 0x80 are the same for both domain bytes. -/
def Obligations.PaddingLayout : Prop :=
  (∀ m : Mode, m.dsuf ||| 0x80 = m.dsuf ^^^ 0x80) ∧
  ∀ (rate : Nat) (T : List Byte) (d : Byte), T.length < rate →
    (pad rate T d).length = rate ∧
    ∀ k, k < rate → (pad rate T d)[k]? =
      let unset : Byte := if k < T.length then T.getD k 0 else if k = T.length then d else 0
      some (if k = rate - 1 then unset ||| 0x80 else unset)

/-- Restart (R125): squeezing `n` bytes and then `k` more from the state and position kept equals one squeeze of `n + k`
bytes. -/
def Obligations.SqueezeMayBeRestarted : Prop :=
  ∀ (rate n k : Nat) (A : Lanes) (p : Nat),
    let first := squeezeFrom rate n A p
    let second := squeezeFrom rate k first.2.1 first.2.2
    squeezeFrom rate (n + k) A p = (first.1 ++ second.1, second.2)

/-- What POS and OUTCNT count (R27, R28): after INIT and ABSORB of `n` bytes POS is the number of bytes in the current block;
after FINAL and `k` SQUEEZE it is the number of bytes read from the current output block, and OUTCNT is `k` in the fixed-output
modes and 0 in the others. -/
def Obligations.CountersCountBytes : Prop :=
  ∀ (s : State) (m : Mode) (cap : BitVec 16) (M : List Byte) (k : Nat) (rest : List HostEvent),
    (∀ n, m.outlen = some n → n.toNat ≤ cap.toNat ∧ k ≤ n.toNat) →
    s.hostInput = asEvents (.init m.code cap :: (absorbCommands M ++ .final :: squeezeCommands k)) ++ rest →
    ∃ f t, core.run (M.length + 1) s = .next f ∧ f.mode = m ∧ f.phase = .absorb ∧
      f.pos.toNat = M.length % m.rate.toNat ∧ f.outcnt = 0 ∧
      core.run (k + 1) f = .next t ∧ t.mode = m ∧ t.phase = .squeeze ∧
      t.pos.toNat = (if k = 0 then 0 else (k - 1) % m.rate.toNat + 1) ∧
      t.outcnt.toNat = (if m.outlen = none then 0 else k)

/-- The byte-serial commands compute the hash (R128, which the spec marks as derived). From any state whatever: INIT with room
for the digest, ABSORB of each message byte, FINAL, then `k` SQUEEZE (at most OUTLEN in the fixed-output modes). Every command
completes, the lanes after FINAL are `absorb_all(M)`, and the data bytes of the SQUEEZE responses are HASH(mode, M, k). -/
def Obligations.CommandsComputeHash : Prop :=
  ∀ (s : State) (m : Mode) (cap : BitVec 16) (M : List Byte) (k : Nat) (rest : List HostEvent),
    (∀ n, m.outlen = some n → n.toNat ≤ cap.toNat ∧ k ≤ n.toNat) →
    s.hostInput = asEvents (.init m.code cap :: (absorbCommands M ++ .final :: squeezeCommands k)) ++ rest →
    ∃ f t, core.run (M.length + 2) s = .next f ∧ f.lanes = absorbAll m M ∧
      f.responses = s.responses ++ List.replicate (M.length + 2) 0 ∧
      core.run k f = .next t ∧ t.hostInput = rest ∧
      t.responses = f.responses ++ (hash m M k).map (responseWord .ok)

/-- The six digest functions as command sequences (R80): with a buffer of `k` bytes that is large enough (any `k` for SHAKE),
every command completes and the data bytes are the digest; with one that is too small the INIT is refused with
InvalidLength. -/
def Obligations.DigestSequences : Prop :=
  ∀ (s : State) (m : Mode) (k : Nat) (M : List Byte) (rest : List HostEvent),
    ((∀ n, m.outlen = some n → n.toNat ≤ k) → s.hostInput = asEvents (digestCommands m k M) ++ rest →
      ∃ t, core.run (M.length + 2 + digestLength m k) s = .next t ∧ t.hostInput = rest ∧
        t.responses = s.responses ++ List.replicate (M.length + 2) 0 ++
          (hash m M (digestLength m k)).map (responseWord .ok)) ∧
    ((∃ n, m.outlen = some n ∧ k < n.toNat) → exec (digestInit m k) s = .next (raise .invalidLength s))
end

