-- ==== Sys2Proof/Laws/State.lean ====
section
/-! SUPPORT. One lemma per field per update of the state, true by rfl, so that no later proof unfolds a record update. -/

namespace Sys2Proof.Machine

@[simp] theorem State.setLanes_lanes (A : Lanes) (s : State) : (s.setLanes A).lanes = A := rfl
@[simp] theorem State.setLanes_mode (A : Lanes) (s : State) : (s.setLanes A).mode = s.mode := rfl
@[simp] theorem State.setLanes_phase (A : Lanes) (s : State) : (s.setLanes A).phase = s.phase := rfl
@[simp] theorem State.setLanes_pos (A : Lanes) (s : State) : (s.setLanes A).pos = s.pos := rfl
@[simp] theorem State.setLanes_outcnt (A : Lanes) (s : State) : (s.setLanes A).outcnt = s.outcnt := rfl
@[simp] theorem State.setLanes_hostInput (A : Lanes) (s : State) : (s.setLanes A).hostInput = s.hostInput := rfl
@[simp] theorem State.setLanes_responses (A : Lanes) (s : State) : (s.setLanes A).responses = s.responses := rfl

@[simp] theorem State.setMode_lanes (m : Mode) (s : State) : (s.setMode m).lanes = s.lanes := rfl
@[simp] theorem State.setMode_mode (m : Mode) (s : State) : (s.setMode m).mode = m := rfl
@[simp] theorem State.setMode_phase (m : Mode) (s : State) : (s.setMode m).phase = s.phase := rfl
@[simp] theorem State.setMode_pos (m : Mode) (s : State) : (s.setMode m).pos = s.pos := rfl
@[simp] theorem State.setMode_outcnt (m : Mode) (s : State) : (s.setMode m).outcnt = s.outcnt := rfl
@[simp] theorem State.setMode_hostInput (m : Mode) (s : State) : (s.setMode m).hostInput = s.hostInput := rfl
@[simp] theorem State.setMode_responses (m : Mode) (s : State) : (s.setMode m).responses = s.responses := rfl

@[simp] theorem State.setPhase_lanes (p : Phase) (s : State) : (s.setPhase p).lanes = s.lanes := rfl
@[simp] theorem State.setPhase_mode (p : Phase) (s : State) : (s.setPhase p).mode = s.mode := rfl
@[simp] theorem State.setPhase_phase (p : Phase) (s : State) : (s.setPhase p).phase = p := rfl
@[simp] theorem State.setPhase_pos (p : Phase) (s : State) : (s.setPhase p).pos = s.pos := rfl
@[simp] theorem State.setPhase_outcnt (p : Phase) (s : State) : (s.setPhase p).outcnt = s.outcnt := rfl
@[simp] theorem State.setPhase_hostInput (p : Phase) (s : State) : (s.setPhase p).hostInput = s.hostInput := rfl
@[simp] theorem State.setPhase_responses (p : Phase) (s : State) : (s.setPhase p).responses = s.responses := rfl

@[simp] theorem State.setPos_lanes (a : BitVec 8) (s : State) : (s.setPos a).lanes = s.lanes := rfl
@[simp] theorem State.setPos_mode (a : BitVec 8) (s : State) : (s.setPos a).mode = s.mode := rfl
@[simp] theorem State.setPos_phase (a : BitVec 8) (s : State) : (s.setPos a).phase = s.phase := rfl
@[simp] theorem State.setPos_pos (a : BitVec 8) (s : State) : (s.setPos a).pos = a := rfl
@[simp] theorem State.setPos_outcnt (a : BitVec 8) (s : State) : (s.setPos a).outcnt = s.outcnt := rfl
@[simp] theorem State.setPos_hostInput (a : BitVec 8) (s : State) : (s.setPos a).hostInput = s.hostInput := rfl
@[simp] theorem State.setPos_responses (a : BitVec 8) (s : State) : (s.setPos a).responses = s.responses := rfl

@[simp] theorem State.setOutcnt_lanes (n : BitVec 7) (s : State) : (s.setOutcnt n).lanes = s.lanes := rfl
@[simp] theorem State.setOutcnt_mode (n : BitVec 7) (s : State) : (s.setOutcnt n).mode = s.mode := rfl
@[simp] theorem State.setOutcnt_phase (n : BitVec 7) (s : State) : (s.setOutcnt n).phase = s.phase := rfl
@[simp] theorem State.setOutcnt_pos (n : BitVec 7) (s : State) : (s.setOutcnt n).pos = s.pos := rfl
@[simp] theorem State.setOutcnt_outcnt (n : BitVec 7) (s : State) : (s.setOutcnt n).outcnt = n := rfl
@[simp] theorem State.setOutcnt_hostInput (n : BitVec 7) (s : State) : (s.setOutcnt n).hostInput = s.hostInput := rfl
@[simp] theorem State.setOutcnt_responses (n : BitVec 7) (s : State) : (s.setOutcnt n).responses = s.responses := rfl

@[simp] theorem emit_lanes (st : Status) (d : Byte) (s : State) : (emit st d s).lanes = s.lanes := rfl
@[simp] theorem emit_mode (st : Status) (d : Byte) (s : State) : (emit st d s).mode = s.mode := rfl
@[simp] theorem emit_phase (st : Status) (d : Byte) (s : State) : (emit st d s).phase = s.phase := rfl
@[simp] theorem emit_pos (st : Status) (d : Byte) (s : State) : (emit st d s).pos = s.pos := rfl
@[simp] theorem emit_outcnt (st : Status) (d : Byte) (s : State) : (emit st d s).outcnt = s.outcnt := rfl
@[simp] theorem emit_hostInput (st : Status) (d : Byte) (s : State) : (emit st d s).hostInput = s.hostInput := rfl
@[simp] theorem emit_responses (st : Status) (d : Byte) (s : State) : (emit st d s).responses = s.responses ++ [responseWord st d] := rfl

@[simp] theorem respond_lanes (d : Byte) (s : State) : (respond d s).lanes = s.lanes := rfl
@[simp] theorem respond_mode (d : Byte) (s : State) : (respond d s).mode = s.mode := rfl
@[simp] theorem respond_phase (d : Byte) (s : State) : (respond d s).phase = s.phase := rfl
@[simp] theorem respond_pos (d : Byte) (s : State) : (respond d s).pos = s.pos := rfl
@[simp] theorem respond_outcnt (d : Byte) (s : State) : (respond d s).outcnt = s.outcnt := rfl
@[simp] theorem respond_hostInput (d : Byte) (s : State) : (respond d s).hostInput = s.hostInput := rfl
@[simp] theorem respond_responses (d : Byte) (s : State) : (respond d s).responses = s.responses ++ [responseWord .ok d] := rfl

@[simp] theorem raise_lanes (st : Status) (s : State) : (raise st s).lanes = s.lanes := rfl
@[simp] theorem raise_mode (st : Status) (s : State) : (raise st s).mode = s.mode := rfl
@[simp] theorem raise_phase (st : Status) (s : State) : (raise st s).phase = s.phase := rfl
@[simp] theorem raise_pos (st : Status) (s : State) : (raise st s).pos = s.pos := rfl
@[simp] theorem raise_outcnt (st : Status) (s : State) : (raise st s).outcnt = s.outcnt := rfl
@[simp] theorem raise_hostInput (st : Status) (s : State) : (raise st s).hostInput = s.hostInput := rfl
@[simp] theorem raise_responses (st : Status) (s : State) : (raise st s).responses = s.responses ++ [responseWord st 0] := rfl

@[simp] theorem clearRegisters_lanes (s : State) : (clearRegisters s).lanes = zeroLanes := rfl
@[simp] theorem clearRegisters_mode (s : State) : (clearRegisters s).mode = .shake128 := rfl
@[simp] theorem clearRegisters_phase (s : State) : (clearRegisters s).phase = .idle := rfl
@[simp] theorem clearRegisters_pos (s : State) : (clearRegisters s).pos = 0 := rfl
@[simp] theorem clearRegisters_outcnt (s : State) : (clearRegisters s).outcnt = 0 := rfl
@[simp] theorem clearRegisters_hostInput (s : State) : (clearRegisters s).hostInput = s.hostInput := rfl
@[simp] theorem clearRegisters_responses (s : State) : (clearRegisters s).responses = s.responses := rfl

@[simp] theorem startInvocation_lanes (m : Mode) (s : State) : (startInvocation m s).lanes = zeroLanes := rfl
@[simp] theorem startInvocation_mode (m : Mode) (s : State) : (startInvocation m s).mode = m := rfl
@[simp] theorem startInvocation_phase (m : Mode) (s : State) : (startInvocation m s).phase = .absorb := rfl
@[simp] theorem startInvocation_pos (m : Mode) (s : State) : (startInvocation m s).pos = 0 := rfl
@[simp] theorem startInvocation_outcnt (m : Mode) (s : State) : (startInvocation m s).outcnt = 0 := rfl
@[simp] theorem startInvocation_hostInput (m : Mode) (s : State) : (startInvocation m s).hostInput = s.hostInput := rfl
@[simp] theorem startInvocation_responses (m : Mode) (s : State) : (startInvocation m s).responses = s.responses := rfl

@[simp] theorem permuteBlock_lanes (s : State) : (permuteBlock s).lanes = Keccak.keccakF s.lanes := rfl
@[simp] theorem permuteBlock_mode (s : State) : (permuteBlock s).mode = s.mode := rfl
@[simp] theorem permuteBlock_phase (s : State) : (permuteBlock s).phase = s.phase := rfl
@[simp] theorem permuteBlock_pos (s : State) : (permuteBlock s).pos = 0 := rfl
@[simp] theorem permuteBlock_outcnt (s : State) : (permuteBlock s).outcnt = s.outcnt := rfl
@[simp] theorem permuteBlock_hostInput (s : State) : (permuteBlock s).hostInput = s.hostInput := rfl
@[simp] theorem permuteBlock_responses (s : State) : (permuteBlock s).responses = s.responses := rfl

/-- Two states with equal fields are equal. -/
theorem State.ext_fields {s t : State} (h1 : s.lanes = t.lanes) (h2 : s.mode = t.mode) (h3 : s.phase = t.phase)
    (h4 : s.pos = t.pos) (h5 : s.outcnt = t.outcnt) (h6 : s.hostInput = t.hostInput) (h7 : s.responses = t.responses) :
    s = t := by
  cases s; cases t; simp_all

end Sys2Proof.Machine
end

