-- ==== Sys2Proof/Laws/Bytes.lean ====
section
/-! SUPPORT. The byte view of the lanes (20_memory.md R51): a read after a write, and that the bytes determine the lanes (the
canonical form of this memory: equal bytes are equal data). -/

namespace Sys2Proof.Machine

/-- Bit `j` of byte `a` is bit `8*(a mod 8) + j` of its lane. -/
theorem getLsbD_readByte (A : Lanes) (a : Fin Config.stateBytes) (j : Nat) :
    (readByte A a).getLsbD j =
      (decide (j < 8) && (A[a.val / 8]'(Nat.div_lt_of_lt_mul a.isLt)).getLsbD (8 * (a.val % 8) + j)) := by
  simp [readByte, BitVec.getLsbD_extractLsb']

/-- Bit `j` of the lane that a byte write changes: the written bits inside the byte, the old ones outside. -/
theorem getLsbD_writeByte_lane (A : Lanes) (a : Fin Config.stateBytes) (v : Byte) (j : Nat) :
    ((writeByte A a v)[a.val / 8]'(Nat.div_lt_of_lt_mul a.isLt)).getLsbD j =
      if 8 * (a.val % 8) ≤ j ∧ j < 8 * (a.val % 8) + 8 then v.getLsbD (j - 8 * (a.val % 8))
      else (A[a.val / 8]'(Nat.div_lt_of_lt_mul a.isLt)).getLsbD j := by
  have hk : a.val % 8 < 8 := Nat.mod_lt _ (by decide)
  have h255 : ∀ i, (255#64).getLsbD i = decide (i < 8) := by
    intro i
    by_cases hi : i < 64
    · revert i; decide
    · rw [BitVec.getLsbD_of_ge _ _ (by omega)]; simp; omega
  simp only [writeByte, Vector.getElem_set_self, BitVec.getLsbD_or, BitVec.getLsbD_and, BitVec.getLsbD_not,
    BitVec.getLsbD_shiftLeft, h255, BitVec.truncate_eq_setWidth, BitVec.getLsbD_setWidth]
  by_cases h1 : 8 * (a.val % 8) ≤ j
  · by_cases h2 : j < 8 * (a.val % 8) + 8
    · have h3 : j < 64 := by omega
      have h4 : j - 8 * (a.val % 8) < 8 := by omega
      have h5 : ¬ j < 8 * (a.val % 8) := by omega
      have h6 : j - 8 * (a.val % 8) < 64 := by omega
      simp [h1, h2, h3, h4, h5, h6]
    · have h4 : ¬ j - 8 * (a.val % 8) < 8 := by omega
      have h6 : v.getLsbD (j - 8 * (a.val % 8)) = false := BitVec.getLsbD_of_ge _ _ (by omega)
      by_cases h3 : j < 64
      · simp [h2, h3, h4, h6]
      · simp [h2, h3, BitVec.getLsbD_of_ge _ _ (show 64 ≤ j by omega)]
  · have h2 : j < 8 * (a.val % 8) := by omega
    by_cases h3 : j < 64
    · simp [h1, h2, h3]
    · omega

/-- A byte read after a byte write: the byte written at its own address, the old byte at every other. -/
theorem readByte_writeByte (A : Lanes) (a b : Fin Config.stateBytes) (v : Byte) :
    readByte (writeByte A a v) b = if b = a then v else readByte A b := by
  apply BitVec.eq_of_getLsbD_eq
  intro j hj
  rw [getLsbD_readByte]
  simp only [hj, decide_true, Bool.true_and]
  by_cases hl : b.val / 8 = a.val / 8
  · have := getLsbD_writeByte_lane A a v (8 * (b.val % 8) + j)
    simp only [hl]
    rw [this]
    by_cases hab : b = a
    · subst hab
      simp [hj]
    · have hne : b.val % 8 ≠ a.val % 8 := by
        intro he
        exact hab (Fin.ext (by omega))
      rw [if_neg (by omega), if_neg hab, getLsbD_readByte]
      simp [hj, hl]
  · have hab : b ≠ a := fun h => hl (by rw [h])
    rw [if_neg hab, getLsbD_readByte]
    have hset : (writeByte A a v)[b.val / 8]'(Nat.div_lt_of_lt_mul b.isLt)
        = A[b.val / 8]'(Nat.div_lt_of_lt_mul b.isLt) := by
      simp only [writeByte]
      exact Vector.getElem_set_ne _ _ (fun h => hl h.symm)
    rw [hset]
    simp [hj]

@[simp] theorem readByte_writeByte_self (A : Lanes) (a : Fin Config.stateBytes) (v : Byte) :
    readByte (writeByte A a v) a = v := by simp [readByte_writeByte]

theorem readByte_writeByte_of_ne (A : Lanes) {a b : Fin Config.stateBytes} (v : Byte) (h : b ≠ a) :
    readByte (writeByte A a v) b = readByte A b := by simp [readByte_writeByte, h]

/-- A byte read after a byte is XORed in. -/
theorem readByte_xorByte (A : Lanes) (a b : Fin Config.stateBytes) (v : Byte) :
    readByte (xorByte A a v) b = if b = a then readByte A a ^^^ v else readByte A b := by
  simp [xorByte, readByte_writeByte]

/-- The 200 bytes determine the 25 lanes. -/
theorem lanes_ext_bytes {A B : Lanes} (h : ∀ a, readByte A a = readByte B a) : A = B := by
  apply Vector.ext
  intro i hi
  apply BitVec.eq_of_getLsbD_eq
  intro j hj
  have hi' : i < 25 := hi
  have key := h ⟨8 * i + j / 8, by simp only [Config.stateBytes]; omega⟩
  have hb := congrArg (fun v => BitVec.getLsbD v (j % 8)) key
  simp only [getLsbD_readByte] at hb
  have e1 : (8 * i + j / 8) / 8 = i := by omega
  have e2 : 8 * (j / 8 % 8) + j % 8 = j := by omega
  simpa [e1, e2, Nat.mod_lt] using hb

end Sys2Proof.Machine
end

