-- ==== Sys2Proof/Laws/Encoding.lean ====
section
/-! SUPPORT. The encoded words bit by bit, one lemma per format with operands of more than five bits (30_encoding.md R70). -/

namespace Sys2Proof

/-- Format M: `cap` in bits 15:0, `mode` in bits 18:16. -/
theorem getLsbD_encode_init (mode : BitVec 3) (cap : BitVec 16) (j : Nat) :
    (encode (.init mode cap)).getLsbD j =
      bif decide (j < 16) then cap.getLsbD j
      else bif decide (j < 19) then mode.getLsbD (j - 16) else (1#8 ++ 0#5).getLsbD (j - 19) := by
  show (1#8 ++ 0#5 ++ mode ++ cap).getLsbD j = _
  rw [BitVec.getLsbD_append, BitVec.getLsbD_append]
  by_cases h : j < 16
  · simp [h]
  · by_cases h2 : j < 19
    · simp [h, h2, show j - 16 < 3 by omega]
    · simp [h, h2, show ¬ j - 16 < 3 by omega, Nat.sub_sub]

/-- Format B: `imm8` in bits 7:0. -/
theorem getLsbD_encode_absorb (imm8 : Byte) (j : Nat) :
    (encode (.absorb imm8)).getLsbD j =
      bif decide (j < 8) then imm8.getLsbD j else (2#8 ++ 0#16).getLsbD (j - 8) := by
  show (2#8 ++ 0#16 ++ imm8).getLsbD j = _
  rw [BitVec.getLsbD_append]
  by_cases h : j < 8 <;> simp [h]

/-- Format AB: `imm8` in bits 7:0, `addr` in bits 15:8. -/
theorem getLsbD_encode_wrs (addr : BitVec 8) (imm8 : Byte) (j : Nat) :
    (encode (.wrs addr imm8)).getLsbD j =
      bif decide (j < 8) then imm8.getLsbD j
      else bif decide (j < 16) then addr.getLsbD (j - 8) else (24#8 ++ 0#8).getLsbD (j - 16) := by
  show (24#8 ++ 0#8 ++ addr ++ imm8).getLsbD j = _
  rw [BitVec.getLsbD_append, BitVec.getLsbD_append]
  by_cases h : j < 8
  · simp [h]
  · by_cases h2 : j < 16
    · simp [h, h2, show j - 8 < 8 by omega]
    · simp [h, h2, show ¬ j - 8 < 8 by omega, Nat.sub_sub]

/-- Format A: `addr` in bits 15:8, bits 7:0 zero. -/
theorem getLsbD_encode_rds (addr : BitVec 8) (j : Nat) :
    (encode (.rds addr)).getLsbD j =
      bif decide (j < 8) then false
      else bif decide (j < 16) then addr.getLsbD (j - 8) else (25#8 ++ 0#8).getLsbD (j - 16) := by
  show (25#8 ++ 0#8 ++ addr ++ 0#8).getLsbD j = _
  rw [BitVec.getLsbD_append, BitVec.getLsbD_append]
  by_cases h : j < 8
  · simp [h]
  · by_cases h2 : j < 16
    · simp [h, h2, show j - 8 < 8 by omega]
    · simp [h, h2, show ¬ j - 8 < 8 by omega, Nat.sub_sub]

end Sys2Proof
end

