-- ==== Sys2Proof/Laws/Lanes.lean ====
section
/-! SUPPORT. Lanes by number and by coordinates (10_state.md R21), and what a simultaneous assignment to all lanes gives (40_permutation.md R99). -/

namespace Sys2Proof.Machine.Keccak

/-- The bits of a table entry given by the bits it sets (10_state.md R32). -/
theorem getLsbD_laneOfBits (l : List Nat) (j : Nat) :
    (laneOfBits l).getLsbD j = (decide (j < 64) && decide (j ∈ l)) := by
  have h : ∀ v : Lane, (l.foldl (fun v b => v ||| BitVec.twoPow 64 b) v).getLsbD j =
      (v.getLsbD j || (decide (j < 64) && decide (j ∈ l))) := by
    induction l with
    | nil => simp
    | cons b l ih =>
      intro v
      simp only [List.foldl_cons, ih, BitVec.getLsbD_or, BitVec.getLsbD_twoPow, List.mem_cons]
      by_cases hj : j < 64 <;> by_cases hb : j = b
      · subst hb; simp [hj]
      · simp [hj, hb, Ne.symm hb]
      · subst hb; simp [hj]
      · simp [hj]; intro h e; omega
  simpa [laneOfBits] using h 0

/-- Lane `i` of a tabulated state. -/
@[simp] theorem getElem_tabulate (f : Fin Config.laneCount → Lane) (i : Nat) (h : i < Config.laneCount) :
    (tabulate f)[i] = f ⟨i, h⟩ := by
  have h' : i < 25 := h
  interval_cases i <;> rfl

/-- The lane at `(x, y)` of a state given by coordinates. -/
@[simp] theorem lane_ofCoordinates (f : Fin 5 → Fin 5 → Lane) (x y : Fin 5) : lane (ofCoordinates f) x y = f x y := by
  have hx := x.isLt
  have hy := y.isLt
  have hc : column ⟨x.val + 5 * y.val, by simp only [Config.laneCount]; omega⟩ = x :=
    Fin.ext (by simp only [column]; omega)
  have hr : row ⟨x.val + 5 * y.val, by simp only [Config.laneCount]; omega⟩ = y :=
    Fin.ext (by simp only [row]; omega)
  simp [lane, ofCoordinates, hc, hr]

/-- A lane by its number is the lane at its coordinates. -/
theorem getElem_eq_lane (A : Lanes) (i : Fin Config.laneCount) : A[i] = lane A (column i) (row i) := by
  have e : (column i).val + 5 * (row i).val = i.val := by simp only [column, row]; omega
  simp [lane, e]

/-- Two states with the same lane at every coordinate are equal. -/
theorem lanes_ext_lane {A B : Lanes} (h : ∀ x y, lane A x y = lane B x y) : A = B := by
  apply Vector.ext
  intro i hi
  have := getElem_eq_lane A ⟨i, hi⟩
  have := getElem_eq_lane B ⟨i, hi⟩
  simp_all

/-- Bit `z` of a rotated lane: it was bit `z - n` modulo 64. -/
theorem getLsbD_rol64 (v : Lane) (n z : Nat) (hz : z < 64) :
    (rol64 v n).getLsbD z = v.getLsbD ((z + (64 - n % 64)) % 64) := by
  have hm : n % 64 < 64 := Nat.mod_lt _ (by decide)
  unfold rol64
  by_cases h0 : n % 64 = 0
  · simp [h0, Nat.mod_eq_of_lt hz]
  · rw [if_neg h0]
    simp only [BitVec.getLsbD_or, BitVec.getLsbD_shiftLeft, BitVec.getLsbD_ushiftRight]
    by_cases hlt : z < n % 64
    · have e : (z + (64 - n % 64)) % 64 = 64 - n % 64 + z := by omega
      simp [hlt, e]
    · have e : (z + (64 - n % 64)) % 64 = z - n % 64 := by omega
      have hov : v.getLsbD (64 - n % 64 + z) = false := BitVec.getLsbD_of_ge _ _ (by omega)
      simp [hz, hlt, e, hov]

end Sys2Proof.Machine.Keccak
end

