-- ==== Sys2Proof/Laws/Ops.lean ====
section
/-! SUPPORT. What each shared operation and each operand form can answer, said once. -/

namespace Sys2Proof.Machine

variable {s t : State} {p : Phase} {go : Result}

theorem complete_next {d : Byte} : complete d s = .next t ↔ t = respond d s := by
  simp [complete, eq_comm]

theorem refuse_next {st : Status} : refuse st s = .next t ↔ t = raise st s := by
  simp [refuse, eq_comm]

theorem inPhase_of_eq (h : s.phase = p) : inPhase p s go = go := if_pos h

theorem inPhase_of_ne (h : s.phase ≠ p) : inPhase p s go = refuse .wrongPhase s := if_neg h

/-- Everything a phase check can lead to when it answers a next state. -/
theorem inPhase_next (h : inPhase p s go = .next t) :
    (s.phase = p ∧ go = .next t) ∨ (s.phase ≠ p ∧ t = raise .wrongPhase s) := by
  by_cases hp : s.phase = p
  · exact .inl ⟨hp, by rwa [inPhase_of_eq hp] at h⟩
  · exact .inr ⟨hp, by rwa [inPhase_of_ne hp, refuse_next] at h⟩

theorem stateAddress_eq_some {a : BitVec 8} {x : Fin Config.stateBytes} :
    stateAddress a = some x ↔ x.val = a.toNat := by
  unfold stateAddress
  have := x.isLt
  split
  · simp [Fin.ext_iff, eq_comm]
  · simp; omega

theorem stateAddress_eq_none {a : BitVec 8} : stateAddress a = none ↔ 200 ≤ a.toNat := by
  unfold stateAddress
  split <;> simp_all [Config.stateBytes]

theorem addrOperand_eq_some {a : BitVec 8} {x : Fin Config.stateBytes} :
    addrOperand a = some x ↔ x.val = a.toNat := stateAddress_eq_some

theorem addrOperand_eq_none {a : BitVec 8} : addrOperand a = none ↔ 200 ≤ a.toNat := stateAddress_eq_none

theorem roundOperand_eq_some {idx : BitVec 5} {i : Fin Config.roundCount} :
    roundOperand idx = some i ↔ i.val = idx.toNat := by
  unfold roundOperand
  have := i.isLt
  split
  · simp [Fin.ext_iff, eq_comm]
  · simp; omega

theorem roundOperand_eq_none {idx : BitVec 5} : roundOperand idx = none ↔ 24 ≤ idx.toNat := by
  unfold roundOperand
  split <;> simp_all [Config.roundCount]

theorem modeOperand_eq_some {mode : BitVec 3} {m : Mode} : modeOperand mode = some m ↔ mode = m.code := by
  revert mode; cases m <;> decide

theorem modeOperand_eq_none {mode : BitVec 3} : modeOperand mode = none ↔ 6 ≤ mode.toNat := by
  revert mode; decide

/-- Everything an access at POS can lead to when it answers a next state. -/
theorem atPos_next {f : Fin Config.stateBytes → Result} (h : atPos s f = .next t) :
    ∃ a, a.val = s.pos.toNat ∧ f a = .next t := by
  unfold atPos at h
  split at h
  · rename_i a ha
    exact ⟨a, stateAddress_eq_some.mp ha, h⟩
  · cases h

theorem atPos_of_lt {f : Fin Config.stateBytes → Result} {a : Fin Config.stateBytes} (h : a.val = s.pos.toNat) :
    atPos s f = f a := by
  simp [atPos, stateAddress_eq_some.mpr h]

theorem atPos_of_ge {f : Fin Config.stateBytes → Result} (h : 200 ≤ s.pos.toNat) :
    atPos s f = .fault .noSuchStateByte := by
  simp [atPos, stateAddress_eq_none.mpr h]

/-- The rate of every mode is at least 72 and at most 168, so it is a byte address above 0. -/
theorem Mode.rate_bounds (m : Mode) : 72 ≤ m.rate.toNat ∧ m.rate.toNat ≤ 168 := by
  cases m <;> decide

end Sys2Proof.Machine
end

