-- ==== Sys2Proof/Laws/Meanings.lean ====
section
/-! SUPPORT. What each shape of meaning and the step can answer, said once: an inversion for each shared shape of a command,
and one for the step. -/

namespace Sys2Proof.Machine

variable {s t : State}

/-- A whole-state engine command: it runs in IDLE, and is refused elsewhere. -/
theorem mapLanes_next {f : Lanes → Lanes} (h : mapLanes f s = .next t) :
    (s.phase = .idle ∧ t = respond 0 (s.setLanes (f s.lanes))) ∨ (s.phase ≠ .idle ∧ t = raise .wrongPhase s) := by
  obtain ⟨hp, h⟩ | h := inPhase_next h
  · exact .inl ⟨hp, complete_next.mp h⟩
  · exact .inr h

/-- An engine command with a round index. -/
theorem mapLanesAt_next {f : Lanes → Fin Config.roundCount → Lanes} {idx : BitVec 5} (h : mapLanesAt f idx s = .next t) :
    (s.phase = .idle ∧ ∃ i, i.val = idx.toNat ∧ t = respond 0 (s.setLanes (f s.lanes i))) ∨
    (s.phase = .idle ∧ 24 ≤ idx.toNat ∧ t = raise .badOperand s) ∨
    (s.phase ≠ .idle ∧ t = raise .wrongPhase s) := by
  obtain ⟨hp, h⟩ | h := inPhase_next h
  · split at h
    · rename_i hi
      exact .inr (.inl ⟨hp, roundOperand_eq_none.mp hi, refuse_next.mp h⟩)
    · rename_i i hi
      exact .inl ⟨hp, i, roundOperand_eq_some.mp hi, complete_next.mp h⟩
  · exact .inr (.inr h)

/-- A raw access. -/
theorem atAddress_next {addr : BitVec 8} {f : Fin Config.stateBytes → Result} (h : atAddress addr s f = .next t) :
    (s.phase = .idle ∧ ∃ a, a.val = addr.toNat ∧ f a = .next t) ∨
    (s.phase = .idle ∧ 200 ≤ addr.toNat ∧ t = raise .badOperand s) ∨
    (s.phase ≠ .idle ∧ t = raise .wrongPhase s) := by
  obtain ⟨hp, h⟩ | h := inPhase_next h
  · split at h
    · rename_i ha
      exact .inr (.inl ⟨hp, addrOperand_eq_none.mp ha, refuse_next.mp h⟩)
    · rename_i a ha
      exact .inl ⟨hp, a, addrOperand_eq_some.mp ha, h⟩
  · exact .inr (.inr h)

/-- Everything INIT can answer. -/
theorem execInit_next {mode : BitVec 3} {cap : BitVec 16} (h : execInit mode cap s = .next t) :
    (6 ≤ mode.toNat ∧ t = raise .badOperand s) ∨
    (∃ m, mode = m.code ∧ capTooSmall m cap = true ∧ t = raise .invalidLength s) ∨
    (∃ m, mode = m.code ∧ capTooSmall m cap = false ∧ t = respond 0 (startInvocation m s)) := by
  unfold execInit at h
  split at h
  · rename_i hm
    exact .inl ⟨modeOperand_eq_none.mp hm, refuse_next.mp h⟩
  · rename_i m hm
    have hm := modeOperand_eq_some.mp hm
    split at h
    · rename_i hc
      exact .inr (.inl ⟨m, hm, hc, refuse_next.mp h⟩)
    · rename_i hc
      exact .inr (.inr ⟨m, hm, by simpa using hc, complete_next.mp h⟩)

/-- Everything ABSORB can answer. -/
theorem execAbsorb_next {v : Byte} (h : execAbsorb v s = .next t) :
    (s.phase = .absorb ∧ ∃ a, a.val = s.pos.toNat ∧ t = respond 0 (closeBlock (absorbByte a v s))) ∨
    (s.phase ≠ .absorb ∧ t = raise .wrongPhase s) := by
  obtain ⟨hp, h⟩ | h := inPhase_next h
  · obtain ⟨a, ha, h⟩ := atPos_next h
    exact .inl ⟨hp, a, ha, complete_next.mp h⟩
  · exact .inr h

/-- Everything FINAL can answer. -/
theorem execFinal_next (h : execFinal s = .next t) :
    (s.phase = .absorb ∧ ∃ a, a.val = s.pos.toNat ∧ t = respond 0 (finishAbsorb a s)) ∨
    (s.phase ≠ .absorb ∧ t = raise .wrongPhase s) := by
  obtain ⟨hp, h⟩ | h := inPhase_next h
  · obtain ⟨a, ha, h⟩ := atPos_next h
    exact .inl ⟨hp, a, ha, complete_next.mp h⟩
  · exact .inr h

/-- countOutput changes the two counters only. -/
@[simp] theorem countOutput_lanes (s : State) : (countOutput s).lanes = s.lanes := by unfold countOutput; split <;> rfl
@[simp] theorem countOutput_mode (s : State) : (countOutput s).mode = s.mode := by unfold countOutput; split <;> rfl
@[simp] theorem countOutput_phase (s : State) : (countOutput s).phase = s.phase := by unfold countOutput; split <;> rfl
@[simp] theorem countOutput_pos (s : State) : (countOutput s).pos = s.pos + 1 := by unfold countOutput; split <;> rfl
@[simp] theorem countOutput_hostInput (s : State) : (countOutput s).hostInput = s.hostInput := by
  unfold countOutput; split <;> rfl
@[simp] theorem countOutput_responses (s : State) : (countOutput s).responses = s.responses := by
  unfold countOutput; split <;> rfl

/-- openBlock and closeBlock do the same: a permutation exactly at POS = RATE. -/
theorem openBlock_eq_closeBlock (s : State) : openBlock s = closeBlock s := rfl

theorem closeBlock_of_eq (h : s.pos = s.mode.rate) : closeBlock s = permuteBlock s := if_pos h

theorem closeBlock_of_ne (h : s.pos ≠ s.mode.rate) : closeBlock s = s := if_neg h

/-- Everything SQUEEZE can answer. -/
theorem execSqueeze_next (h : execSqueeze s = .next t) :
    (s.phase = .squeeze ∧ outputDone s = false ∧ ∃ a, a.val = (openBlock s).pos.toNat ∧
      t = respond (readByte (openBlock s).lanes a) (countOutput (openBlock s))) ∨
    (s.phase = .squeeze ∧ outputDone s = true ∧ t = raise .outputExhausted s) ∨
    (s.phase ≠ .squeeze ∧ t = raise .wrongPhase s) := by
  obtain ⟨hp, h⟩ | h := inPhase_next h
  · split at h
    · rename_i hd
      exact .inr (.inl ⟨hp, hd, refuse_next.mp h⟩)
    · rename_i hd
      obtain ⟨a, ha, h⟩ := atPos_next h
      exact .inl ⟨hp, by simpa using hd, a, ha, complete_next.mp h⟩
  · exact .inr (.inr h)

/-- Everything a step can answer. -/
theorem step_next (h : step s = .next t) :
    (s.hostInput = [] ∧ t = s) ∨
    (∃ rest, s.hostInput = .reset :: rest ∧ t = applyReset { s with hostInput := rest }) ∨
    (∃ w rest i, s.hostInput = .command w :: rest ∧ decode w = .ok i ∧ exec i { s with hostInput := rest } = .next t) ∨
    (∃ w rest e, s.hostInput = .command w :: rest ∧ decode w = .error e ∧ t = illegalWord { s with hostInput := rest }) := by
  unfold step takeEvent at h
  cases hin : s.hostInput with
  | nil => simp only [hin] at h; cases h; exact .inl ⟨rfl, rfl⟩
  | cons ev rest =>
    cases ev with
    | reset => simp only [hin] at h; cases h; exact .inr (.inl ⟨rest, rfl, rfl⟩)
    | command w =>
      simp only [hin] at h
      cases hd : decode w with
      | ok i => simp only [hd] at h; exact .inr (.inr (.inl ⟨w, rest, i, rfl, hd, h⟩))
      | error e => simp only [hd] at h; cases h; exact .inr (.inr (.inr ⟨w, rest, e, rfl, hd, rfl⟩))

end Sys2Proof.Machine
end

