-- ==== Sys2Proof/Laws/PerInstr.lean ====
section
/-! SUPPORT. Per-instruction statements about the encoder: the word of every instruction matches the row of the opcode table
(30_encoding.md R72) that carries its mnemonic. -/

namespace Sys2Proof.Laws.MatchesRow

open Sys2Proof Sys2Proof.Machine

/-- Some row of the opcode table with the instruction's mnemonic matches its word. -/
def Statement (i : Instr) : Prop :=
  ∃ r ∈ opcodeTable, r.mnemonic = mnemonicOf i ∧ encode i &&& r.mask = r.pattern

theorem init (mode : BitVec 3) (cap : BitVec 16) : Statement (.init mode cap) := by
  refine ⟨⟨"INIT", 0xFFF80000, 0x01000000, fun w => .init (modeField w) (capField w)⟩, by simp [opcodeTable], rfl, ?_⟩
  apply BitVec.eq_of_getLsbD_eq
  intro j hj
  rw [BitVec.getLsbD_and, getLsbD_encode_init]
  interval_cases j <;> simp

theorem absorb (imm8 : Byte) : Statement (.absorb imm8) := by
  refine ⟨⟨"ABSORB", 0xFFFFFF00, 0x02000000, fun w => .absorb (imm8Field w)⟩, by simp [opcodeTable], rfl, ?_⟩
  apply BitVec.eq_of_getLsbD_eq
  intro j hj
  rw [BitVec.getLsbD_and, getLsbD_encode_absorb]
  interval_cases j <;> simp

theorem final : Statement .final :=
  ⟨⟨"FINAL", 0xFFFFFFFF, 0x03000000, fun _ => .final⟩, by simp [opcodeTable], rfl, by decide⟩

theorem squeeze : Statement .squeeze :=
  ⟨⟨"SQUEEZE", 0xFFFFFFFF, 0x04000000, fun _ => .squeeze⟩, by simp [opcodeTable], rfl, by decide⟩

theorem stat : Statement .stat :=
  ⟨⟨"STAT", 0xFFFFFFFF, 0x05000000, fun _ => .stat⟩, by simp [opcodeTable], rfl, by decide⟩

theorem clear : Statement .clear :=
  ⟨⟨"CLEAR", 0xFFFFFFFF, 0x06000000, fun _ => .clear⟩, by simp [opcodeTable], rfl, by decide⟩

theorem permute : Statement .permute :=
  ⟨⟨"PERMUTE", 0xFFFFFFFF, 0x10000000, fun _ => .permute⟩, by simp [opcodeTable], rfl, by decide⟩

theorem round (idx : BitVec 5) : Statement (.round idx) :=
  ⟨⟨"ROUND", 0xFFFFFFE0, 0x11000000, fun w => .round (idxField w)⟩, by simp [opcodeTable], rfl, by revert idx; decide⟩

theorem theta : Statement .theta :=
  ⟨⟨"THETA", 0xFFFFFFFF, 0x12000000, fun _ => .theta⟩, by simp [opcodeTable], rfl, by decide⟩

theorem rho : Statement .rho :=
  ⟨⟨"RHO", 0xFFFFFFFF, 0x13000000, fun _ => .rho⟩, by simp [opcodeTable], rfl, by decide⟩

theorem pi : Statement .pi :=
  ⟨⟨"PI", 0xFFFFFFFF, 0x14000000, fun _ => .pi⟩, by simp [opcodeTable], rfl, by decide⟩

theorem chi : Statement .chi :=
  ⟨⟨"CHI", 0xFFFFFFFF, 0x15000000, fun _ => .chi⟩, by simp [opcodeTable], rfl, by decide⟩

theorem iota (idx : BitVec 5) : Statement (.iota idx) :=
  ⟨⟨"IOTA", 0xFFFFFFE0, 0x16000000, fun w => .iota (idxField w)⟩, by simp [opcodeTable], rfl, by revert idx; decide⟩

theorem wrs (addr : BitVec 8) (imm8 : Byte) : Statement (.wrs addr imm8) := by
  refine ⟨⟨"WRS", 0xFFFF0000, 0x18000000, fun w => .wrs (addrField w) (imm8Field w)⟩, by simp [opcodeTable], rfl, ?_⟩
  apply BitVec.eq_of_getLsbD_eq
  intro j hj
  rw [BitVec.getLsbD_and, getLsbD_encode_wrs]
  interval_cases j <;> simp

theorem rds (addr : BitVec 8) : Statement (.rds addr) := by
  refine ⟨⟨"RDS", 0xFFFF00FF, 0x19000000, fun w => .rds (addrField w)⟩, by simp [opcodeTable], rfl, ?_⟩
  apply BitVec.eq_of_getLsbD_eq
  intro j hj
  rw [BitVec.getLsbD_and, getLsbD_encode_rds]
  interval_cases j <;> simp

end Sys2Proof.Laws.MatchesRow
end

