-- ==== Sys2Proof/Tests/Slice0.lean ====
section
/-! SUPPORT. Small tests of the model, each expected result taken from spec/ (named at the test), the refusals of WellFormed, and
for every statement of Certificates/Slice0/Obligations.lean that has hypotheses a witness that meets them. -/

namespace Sys2Proof.Tests

open Sys2Proof Sys2Proof.Machine

/-! ### Helpers -/

/-- A state in the given phase and mode at the given position. -/
def at' (p : Phase) (m : Mode) (pos : BitVec 8) : State := { State.reset with phase := p, mode := m, pos := pos }

/-- `s` with one more event on the port. -/
def given (e : HostEvent) (s : State) : State := { s with hostInput := [e] }

/-- Lane `i` of the next state. -/
def laneAfter (r : Result) (i : Fin 25) : Option Lane :=
  match r with
  | .next t => some t.lanes[i]
  | _ => none

/-- The responses of the next state. -/
def responsesAfter (r : Result) : Option (List ResponseWord) :=
  match r with
  | .next t => some t.responses
  | _ => none

/-- MODE, PHASE, POS, OUTCNT of the next state. -/
def controlAfter (r : Result) : Option (Mode × Phase × BitVec 8 × BitVec 7) :=
  match r with
  | .next t => some (t.mode, t.phase, t.pos, t.outcnt)
  | _ => none

/-- The reset state with every lane replaced. -/
def withLanes (A : Lanes) : State := { State.reset with lanes := A }

/-- The state of V26 and V27: `A[i] = 0x0101010101010101 * (i+1)`. -/
def stripes : Lanes := Keccak.tabulate fun i => BitVec.ofNat 64 (0x0101010101010101 * (i.val + 1))

/-! ### WellFormed refuses each out-of-range operand (R71) -/

theorem test_illformed_mode : ¬ (Instr.init 6 100).WellFormed := by decide
theorem test_illformed_round : ¬ (Instr.round 24).WellFormed := by decide
theorem test_illformed_iota : ¬ (Instr.iota 31).WellFormed := by decide
theorem test_illformed_wrs : ¬ (Instr.wrs 200 0).WellFormed := by decide
theorem test_illformed_rds : ¬ (Instr.rds 255).WellFormed := by decide
theorem test_wellformed_limits : (Instr.init 5 0).WellFormed ∧ (Instr.round 23).WellFormed ∧ (Instr.wrs 199 255).WellFormed := by
  decide

/-! ### Decoding: words written out from the encodings of R70 and R72 -/

theorem test_decode_init : decode 0b00000001_00000_011_0000000000100000 = .ok (.init 3 32) := rfl
theorem test_decode_absorb : decode 0b00000010_0000000000000000_11111111 = .ok (.absorb 0xFF) := rfl
theorem test_decode_final : decode 0b00000011_000000000000000000000000 = .ok .final := rfl
theorem test_decode_squeeze : decode 0b00000100_000000000000000000000000 = .ok .squeeze := rfl
theorem test_decode_stat : decode 0b00000101_000000000000000000000000 = .ok .stat := rfl
theorem test_decode_clear : decode 0b00000110_000000000000000000000000 = .ok .clear := rfl
theorem test_decode_permute : decode 0b00010000_000000000000000000000000 = .ok .permute := rfl
theorem test_decode_round : decode 0b00010001_0000000000000000000_10111 = .ok (.round 23) := rfl
theorem test_decode_theta : decode 0b00010010_000000000000000000000000 = .ok .theta := rfl
theorem test_decode_rho : decode 0b00010011_000000000000000000000000 = .ok .rho := rfl
theorem test_decode_pi : decode 0b00010100_000000000000000000000000 = .ok .pi := rfl
theorem test_decode_chi : decode 0b00010101_000000000000000000000000 = .ok .chi := rfl
theorem test_decode_iota : decode 0b00010110_0000000000000000000_00101 = .ok (.iota 5) := rfl
theorem test_decode_wrs : decode 0b00011000_00000000_11000111_10000000 = .ok (.wrs 199 0x80) := rfl
theorem test_decode_rds : decode 0b00011001_00000000_00001000_00000000 = .ok (.rds 8) := rfl

/-- Words that are no commands (V10 to V18). -/
theorem test_decode_illegal :
    [0x00000000, 0xFFFFFFFF, 0x07000000, 0x17000000].map decode =
      List.replicate 4 (.error DecodeError.unknownOpcode) ∧
    [0x03000001, 0x02000100, 0x01080000, 0x19000001, 0x11000020].map decode =
      List.replicate 5 (.error DecodeError.reservedBits) := by
  constructor <;> rfl

/-- The host's two names, on the table's word of WRS 199, 0xFF (V7): the very next step runs it. -/
theorem test_fetch_word :
    decodeTableWord 32 0x1800C7FF = some (.wrs 199 0xFF) ∧
    step (State.reset.withFetchWord 32 0x1800C7FF) = exec (.wrs 199 0xFF) State.reset := ⟨rfl, rfl⟩

/-! ### Sponge commands -/

/-- R130, V86's neighbour: INIT SHA3_256, 32 completes. -/
theorem test_init : controlAfter (exec (.init 3 32) State.reset) = some (.sha3x256, .absorb, 0, 0) := by decide
/-- V86: INIT SHA3_256, 31 is refused with InvalidLength; V88: INIT 6, 100 with BadOperand. -/
theorem test_init_refused :
    exec (.init 3 31) State.reset = .next { State.reset with responses := [0x0100] } ∧
    exec (.init 6 100) State.reset = .next { State.reset with responses := [0x0500] } := ⟨rfl, rfl⟩

/-- P2: ABSORB 0x61 gives A[0] = 0x61 and POS = 1. -/
theorem test_absorb :
    laneAfter (exec (.absorb 0x61) (at' .absorb .shake128 0)) 0 = some 0x61 ∧
    controlAfter (exec (.absorb 0x61) (at' .absorb .shake128 0)) = some (.shake128, .absorb, 1, 0) := by decide
/-- P4: the 72nd byte of a SHA3-512 block permutes and sets POS to 0, the 71st does not. -/
theorem test_absorb_block_end :
    controlAfter (exec (.absorb 0xA3) (at' .absorb .sha3x512 71)) = some (.sha3x512, .absorb, 0, 0) ∧
    controlAfter (exec (.absorb 0xA3) (at' .absorb .sha3x512 70)) = some (.sha3x512, .absorb, 71, 0) := by decide

/-- P1 and V32: what FINAL XORs in, at POS 0 and at POS = RATE - 1. -/
theorem test_final_padding :
    (padLanes .sha3x256 0 zeroLanes)[0] = 0x06 ∧ (padLanes .sha3x256 0 zeroLanes)[16] = 0x8000000000000000 ∧
    (padLanes .sha3x256 135 zeroLanes)[16] = 0x8600000000000000 ∧
    (padLanes .shake128 167 zeroLanes)[20] = 0x9F00000000000000 := by decide
/-- R132: FINAL ends in phase SQUEEZE at POS 0. -/
theorem test_final_control :
    controlAfter (exec .final (at' .absorb .sha3x512 71)) = some (.sha3x512, .squeeze, 0, 0) := by decide

/-- R133: a fixed-output SQUEEZE answers S[POS] and counts; V92: after OUTLEN bytes it is refused. -/
theorem test_squeeze_fixed :
    responsesAfter (exec .squeeze { at' .squeeze .sha3x224 1 with lanes := stripes, outcnt := 1 }) = some [0x0001] ∧
    controlAfter (exec .squeeze { at' .squeeze .sha3x224 1 with outcnt := 1 }) = some (.sha3x224, .squeeze, 2, 2) ∧
    responsesAfter (exec .squeeze { at' .squeeze .sha3x224 28 with outcnt := 28 }) = some [0x0600] := by decide
/-- V82: the 169th SQUEEZE of SHAKE128 permutes first and leaves POS = 1, OUTCNT = 0. -/
theorem test_squeeze_block_end :
    controlAfter (exec .squeeze (at' .squeeze .shake128 168)) = some (.shake128, .squeeze, 1, 0) := by decide

/-- R134's examples: 0x000D, 0x000E and 0x0016. -/
theorem test_stat :
    responsesAfter (exec .stat (at' .absorb .sha3x256 0)) = some [0x000D] ∧
    responsesAfter (exec .stat (at' .squeeze .sha3x256 0)) = some [0x000E] ∧
    responsesAfter (exec .stat (at' .squeeze .sha3x512 0)) = some [0x0016] := by decide

/-- R135: CLEAR gives the reset state and response 0x0000. -/
theorem test_clear :
    exec .clear { at' .squeeze .sha3x512 5 with lanes := stripes, outcnt := 5 } =
      .next { State.reset with responses := [0x0000] } := by rfl

/-! ### Permutation commands -/

set_option maxRecDepth 4000 in
/-- V20: lane 0 of PERMUTE from reset. -/
theorem test_permute : (Keccak.keccakF zeroLanes)[0] = 0xF1258F7940E1DDE7 := by decide +kernel
/-- V85: PERMUTE during an invocation is refused with WrongPhase. -/
theorem test_permute_wrong_phase :
    responsesAfter (exec .permute (at' .absorb .sha3x256 0)) = some [0x0400] := by decide

/-- V19: lanes 0 and 4 after ROUND 0, ROUND 1 from reset. -/
theorem test_round :
    (Keccak.round (Keccak.round zeroLanes 0) 1)[0] = 0x8083 ∧
    (Keccak.round (Keccak.round zeroLanes 0) 1)[4] = 0x0000100000008000 := by decide +kernel
/-- V91: ROUND 24 is refused with BadOperand. -/
theorem test_round_operand : responsesAfter (exec (.round 24) State.reset) = some [0x0500] := by decide

/-- V27: lanes 0 and 24 after THETA. -/
theorem test_theta :
    laneAfter (exec .theta (withLanes stripes)) 0 = some 0x1010101010101010 ∧
    laneAfter (exec .theta (withLanes stripes)) 24 = some 0x0303030303030303 := by decide +kernel
/-- V22: THETA of A[0] = 1 puts the rotated parity into column 4. -/
theorem test_theta_rotation :
    laneAfter (exec .theta (withLanes (zeroLanes.set 0 1))) 9 = some 2 ∧
    laneAfter (exec .theta (withLanes (zeroLanes.set 0 1))) 6 = some 1 := by decide +kernel

/-- V24: RHO on lanes with both end bits set. -/
theorem test_rho :
    laneAfter (exec .rho (withLanes (Vector.replicate 25 0x8000000000000001))) 2 = some 0x6000000000000000 ∧
    laneAfter (exec .rho (withLanes (Vector.replicate 25 0x8000000000000001))) 24 = some 0x6000 ∧
    laneAfter (exec .rho (withLanes (Vector.replicate 25 0x8000000000000001))) 0 = some 0x8000000000000001 := by decide

/-- V25: PI on A[i] = i. -/
theorem test_pi :
    (List.finRange 25).map (fun i => (Keccak.pi (Keccak.tabulate fun i => BitVec.ofNat 64 i.val))[i].toNat) =
      [0, 6, 12, 18, 24, 3, 9, 10, 16, 22, 1, 7, 13, 19, 20, 4, 5, 11, 17, 23, 2, 8, 14, 15, 21] := by decide +kernel

/-- V26: lanes 1 and 24 after CHI. -/
theorem test_chi :
    laneAfter (exec .chi (withLanes stripes)) 1 = some 0x0606060606060606 ∧
    laneAfter (exec .chi (withLanes stripes)) 24 = some 0x1B1B1B1B1B1B1B1B := by decide

/-- R104: IOTA 23 from reset; IOTA 24 is refused with BadOperand. -/
theorem test_iota :
    laneAfter (exec (.iota 23) State.reset) 0 = some 0x8000000080008008 ∧
    responsesAfter (exec (.iota 24) State.reset) = some [0x0500] := by decide

/-- V23: ROL64. -/
theorem test_rol64 :
    Keccak.rol64 0x8000000000000001 1 = 3 ∧ Keccak.rol64 0x8000000000000001 63 = 0xC000000000000000 ∧
    Keccak.rol64 0x0123456789ABCDEF 36 = 0x9ABCDEF012345678 := by decide

/-! ### Raw access -/

/-- R150: WRS 9, 0xAB and WRS 199, 0x80 from reset. -/
theorem test_wrs :
    laneAfter (exec (.wrs 9 0xAB) State.reset) 1 = some 0xAB00 ∧
    laneAfter (exec (.wrs 199 0x80) State.reset) 24 = some 0x8000000000000000 := by decide
/-- V89 and V90: the phase is checked before the address. -/
theorem test_wrs_refused :
    responsesAfter (exec (.wrs 200 0) State.reset) = some [0x0500] ∧
    responsesAfter (exec (.wrs 200 0) (at' .absorb .sha3x256 0)) = some [0x0400] := by decide

/-- R51 and R151: byte 7 of a lane is its most significant byte. -/
theorem test_rds :
    responsesAfter (exec (.rds 7) (withLanes (zeroLanes.set 0 0xF1258F7940E1DDE7))) = some [0x00F1] ∧
    responsesAfter (exec (.rds 0) (withLanes (zeroLanes.set 0 0xF1258F7940E1DDE7))) = some [0x00E7] := by decide
/-- R151: RDS during an invocation answers 0x0400. -/
theorem test_rds_refused : responsesAfter (exec (.rds 0) (at' .absorb .shake128 0)) = some [0x0400] := by decide

/-! ### The step -/

/-- V10: an illegal word, by a step. -/
theorem test_step_illegal :
    step (given (.command 0) State.reset) = .next { State.reset with responses := [0x0300] } := rfl
/-- R180: the reset input answers nothing. -/
theorem test_step_reset : step (given .reset (at' .squeeze .sha3x512 3)) = .next State.reset := rfl

/-- R79: the text of INIT SHA3_256, 32. -/
theorem test_assembly : operandsOf (.init 3 32) = [3, 32] ∧ mnemonicOf (.init 3 32) = "INIT" := by decide

/-! ### Witnesses: a state and operands that meet the hypotheses of each statement that has some -/

theorem witness_DecoderIsExact :
    reservedBits ((0x17000000 : CommandWord).extractLsb' 24 8) = none ∧
    reservedBits ((0x01F80000 : CommandWord).extractLsb' 24 8) = some 0x00F80000 ∧
    (0x01F80000 : CommandWord) &&& 0x00F80000 ≠ 0 ∧ (0x0107FFFF : CommandWord) &&& 0x00F80000 = 0 ∧
    reservedBits ((0x0107FFFF : CommandWord).extractLsb' 24 8) = some 0x00F80000 := by decide

theorem witness_StepRunsDecodedCommand :
    (given (.command 0x05000000) State.reset).hostInput = .command 0x05000000 :: [] ∧ decode 0x05000000 = .ok .stat := ⟨rfl, rfl⟩

theorem witness_IllegalWordIsRefused :
    (given (.command 0) State.reset).hostInput = .command 0 :: [] ∧
    reservedBits ((0 : CommandWord).extractLsb' 24 8) = none ∧
    (given (.command 0x03000001) State.reset).hostInput = .command 0x03000001 :: [] ∧
    reservedBits ((0x03000001 : CommandWord).extractLsb' 24 8) = some 0x00FFFFFF ∧
    (0x03000001 : CommandWord) &&& 0x00FFFFFF ≠ 0 := by decide

theorem witness_ResetInputAndClear : (given .reset State.reset).hostInput = .reset :: [] := rfl

theorem witness_ResetValues :
    responsesAfter (exec .clear State.reset) = some [0] ∧
    responsesAfter (exec (.init 0 0) State.reset) = some (State.reset.responses ++ [0x0000]) ∧
    (at' .absorb .shake128 167).phase = .absorb ∧ (controlAfter (exec .final (at' .absorb .shake128 167))).isSome := by
  decide

theorem witness_IdleBlockWaits : State.reset.hostInput = [] := rfl

theorem witness_OneResponsePerCommand :
    (given (.command 0xFFFFFFFF) State.reset).hostInput = .command 0xFFFFFFFF :: [] ∧
    step (given (.command 0xFFFFFFFF) State.reset) = .next { State.reset with responses := [0x0300] } ∧
    State.reset.hostInput = [] ∧ step State.reset = .next State.reset ∧
    (given .reset State.reset).hostInput = .reset :: [] ∧ step (given .reset State.reset) = .next State.reset :=
  ⟨rfl, rfl, rfl, rfl, rfl, rfl⟩

/-- A refused command, a completed one without data. -/
theorem witness_ResponseWordLayout :
    exec .final State.reset = .next { State.reset with responses := [] ++ [0x0400] } ∧ statusField 0x0400 ≠ 0 ∧
    exec .clear State.reset = .next { State.reset with responses := [] ++ [0x0000] } ∧ statusField 0x0000 = 0 ∧
    Instr.clear ≠ .squeeze ∧ Instr.clear ≠ .stat ∧ (∀ addr, Instr.clear ≠ .rds addr) :=
  ⟨rfl, by decide, rfl, by decide, by decide, by decide, fun _ h => nomatch h⟩

theorem witness_ConstantTables : Mode.sha3x512.outlen = some 64 ∧ (1, 1) ∈ offsetWalk 24 0 1 0 := by decide

theorem witness_RotationLaws : 63 < 64 := by decide

/-- Every column of the state with lanes 0 and 5 equal to 1 has even parity. -/
theorem witness_ThetaFormula :
    let A : Lanes := (zeroLanes.set 0 1).set 5 1
    ∀ x : Fin 5, A[laneNumber x 0] ^^^ A[laneNumber x 1] ^^^ A[laneNumber x 2] ^^^ A[laneNumber x 3] ^^^ A[laneNumber x 4] = 0 := by
  decide

theorem witness_IotaFormula : (24 : Fin 25) ≠ 0 := by decide

/-- The rounds run one after the other are such a sequence. -/
theorem witness_PermutationIsTwentyFourRounds :
    let seq : Nat → Lanes := fun n => (Keccak.roundIndices.take n).foldl Keccak.round zeroLanes
    seq 0 = zeroLanes ∧ ∀ i : Fin 24, seq (i.val + 1) = Keccak.round (seq i.val) i :=
  ⟨rfl, fun i => by fin_cases i <;> rfl⟩

theorem witness_MemReadAfterMemWrite : 192 + 8 ≤ 200 := by decide

theorem witness_InitStartsInvocation :
    5 < (6 : BitVec 3).toNat ∧
    ((3 : BitVec 3) = Mode.sha3x256.code ∧ Mode.sha3x256.outlen = some 32 ∧ (31 : BitVec 16).toNat < (32 : BitVec 7).toNat) ∧
    (∀ n, Mode.sha3x256.outlen = some n → n.toNat ≤ (32 : BitVec 16).toNat) ∧
    (∀ n, Mode.shake128.outlen = some n → n.toNat ≤ (0 : BitVec 16).toNat) := by
  refine ⟨by decide, by decide, ?_, ?_⟩ <;> intro n h <;> cases h; decide

theorem witness_AbsorbTakesOneByte :
    State.reset.phase ≠ .absorb ∧ (at' .absorb .sha3x512 71).phase = .absorb ∧
    (71 : Fin 200).val = (at' .absorb .sha3x512 71).pos.toNat ∧ (at' .absorb .sha3x512 71).pos + 1 = Mode.sha3x512.rate ∧
    (70 : Fin 200).val = (at' .absorb .sha3x512 70).pos.toNat ∧ (at' .absorb .sha3x512 70).pos + 1 ≠ Mode.sha3x512.rate := by
  decide

theorem witness_FinalPadsAndPermutes :
    State.reset.phase ≠ .absorb ∧ (at' .absorb .sha3x256 135).phase = .absorb ∧
    (135 : Fin 200).val = (at' .absorb .sha3x256 135).pos.toNat ∧ (135 : Fin 200).val + 1 = Mode.sha3x256.rate.toNat ∧
    (0 : Fin 200).val = (at' .absorb .sha3x256 0).pos.toNat := by decide

theorem witness_SqueezeGivesOneByte :
    State.reset.phase ≠ .squeeze ∧
    (let s := { at' .squeeze .sha3x224 28 with outcnt := 28 }; s.phase = .squeeze ∧ s.mode.outlen = some s.outcnt) ∧
    (let s := at' .squeeze .shake128 168; s.phase = .squeeze ∧ s.mode.outlen ≠ some s.outcnt ∧ s.pos = s.mode.rate) ∧
    (let s := at' .squeeze .shake128 167; s.phase = .squeeze ∧ s.mode.outlen ≠ some s.outcnt ∧ s.pos ≠ s.mode.rate ∧
      (167 : Fin 200).val = s.pos.toNat) := by decide

/-- The hypotheses of PermuteRunsPermutation, RoundRunsOneRound, ThetaCommand, RhoCommand, PiCommand, ChiCommand, IotaCommand,
WrsWritesOneByte and RdsReadsOneByte: a state in IDLE, one out of it, and the operands on both sides of each limit. -/
theorem witness_EngineAndRawCommands :
    State.reset.phase = .idle ∧ (at' .absorb .shake128 0).phase ≠ .idle ∧
    23 < (24 : BitVec 5).toNat ∧ (23 : Fin 24).val = (23 : BitVec 5).toNat ∧
    199 < (200 : BitVec 8).toNat ∧ (199 : Fin 200).val = (199 : BitVec 8).toNat := by decide

/-- The hypotheses of `DecodesAs` for each row of the opcode table: the row's pattern matches it, and the pattern with every
reserved bit set has its opcode and does not match. -/
theorem witness_DecodesAs :
    opcodeTable.length = 15 ∧ ∀ r ∈ opcodeTable,
      r.pattern &&& r.mask = r.pattern ∧
      (r.pattern ||| (r.mask &&& 0x00FFFFFF)).extractLsb' 24 8 = r.pattern.extractLsb' 24 8 ∧
      (r.pattern ||| (r.mask &&& 0x00FFFFFF)) &&& r.mask ≠ r.pattern := by decide

/-- From reset the five step commands run one after the other, and 24 ROUND commands stand on the port. -/
theorem witness_RoundIsFiveStepCommands :
    (State.reset.phase = .idle ∧ (23 : BitVec 5).toNat ≤ 23 ∧
      ∃ s1 s2 s3 s4 s5, exec .theta State.reset = .next s1 ∧ exec .rho s1 = .next s2 ∧ exec .pi s2 = .next s3 ∧
        exec .chi s3 = .next s4 ∧ exec (.iota 23) s4 = .next s5) ∧
    (let s := { State.reset with hostInput := asEvents ((List.range 24).map fun i => .round (BitVec.ofNat 5 i)) }
     s.phase = .idle ∧ s.hostInput = asEvents ((List.range 24).map fun i => .round (BitVec.ofNat 5 i)) ++ []) :=
  ⟨⟨rfl, by decide, _, _, _, _, _, rfl, rfl, rfl, rfl, rfl⟩, rfl, (List.append_nil _).symm⟩

theorem witness_PosOutsideArrayFaults :
    200 ≤ (at' .absorb .shake128 200).pos.toNat ∧ (at' .absorb .shake128 200).phase = .absorb ∧
    200 ≤ (at' .squeeze .shake128 255).pos.toNat ∧ (at' .squeeze .shake128 255).phase = .squeeze ∧
    (at' .squeeze .shake128 255).mode.outlen ≠ some (at' .squeeze .shake128 255).outcnt := by decide

/-- Each command of EngineCommandsFrame runs from reset. -/
theorem witness_EngineCommandsFrame :
    ∀ i ∈ [Instr.permute, .round 0, .theta, .rho, .pi, .chi, .iota 0], (controlAfter (exec i State.reset)).isSome := by
  decide

theorem witness_RawAccessFrame :
    (∀ i ∈ [Instr.rds 199, .stat], (controlAfter (exec i State.reset)).isSome) ∧
    (controlAfter (exec (.wrs 199 1) State.reset)).isSome ∧ some (198 : Fin 200) ≠ addrOperand 199 := by decide

theorem witness_SpongeCommandsFrame :
    (controlAfter (exec (.absorb 1) (at' .absorb .sha3x512 70))).isSome ∧
    (at' .absorb .sha3x512 70).pos + 1 ≠ Mode.sha3x512.rate ∧
    stateAddress (at' .absorb .sha3x512 70).pos = some 70 ∧ (71 : Fin 200) ≠ 70 ∧
    (controlAfter (exec .squeeze (at' .squeeze .shake128 167))).isSome ∧ Mode.shake128.code.toNat < 2 ∧
    (at' .squeeze .shake128 167).pos ≠ Mode.shake128.rate ∧
    (controlAfter (exec .final (at' .absorb .sha3x512 70))).isSome ∧
    (∀ i ∈ [Instr.init 0 0, .stat, .clear], (controlAfter (exec i State.reset)).isSome) := by decide

/-- A state in the middle of absorbing has the invariants. -/
theorem inv_absorbing : (at' .absorb .sha3x512 70).Inv := by
  constructor <;> simp [at', State.reset, Mode.rate, Mode.outlen]

/-- A state that has used up a SHAKE128 block has the invariants. -/
theorem inv_squeezing : (at' .squeeze .shake128 168).Inv := by
  constructor <;> simp [at', State.reset, Mode.rate, Mode.outlen]

/-- The reset state with one command on the port has the invariants. -/
theorem inv_given : (given (.command 0x05000000) State.reset).Inv := by
  constructor <;> simp [given, State.reset, Mode.outlen]

/-- A state in which the next ABSORB completes a block has the invariants. -/
theorem inv_lastOfBlock : (at' .absorb .sha3x512 71).Inv := by
  constructor <;> simp [at', State.reset, Mode.rate, Mode.outlen]

/-- One witness for each clause; the SQUEEZE clause on both sides of POS = RATE. -/
theorem witness_CapacityOnlyPermuted :
    ((at' .absorb .sha3x512 70).Inv ∧ (controlAfter (exec (.absorb 1) (at' .absorb .sha3x512 70))).isSome ∧
      (at' .absorb .sha3x512 70).pos + 1 ≠ Mode.sha3x512.rate ∧ Mode.sha3x512.rate.toNat ≤ (72 : Fin 200).val) ∧
    ((at' .absorb .sha3x512 71).Inv ∧ (71 : Fin 200).val = (at' .absorb .sha3x512 71).pos.toNat ∧
      (at' .absorb .sha3x512 71).pos + 1 = Mode.sha3x512.rate ∧ (at' .absorb .sha3x512 71).phase = .absorb ∧
      (controlAfter (exec (.absorb 1) (at' .absorb .sha3x512 71))).isSome ∧
      (controlAfter (exec .final (at' .absorb .sha3x512 71))).isSome) ∧
    ((controlAfter (exec .squeeze (at' .squeeze .shake128 167))).isSome ∧
      (at' .squeeze .shake128 167).pos ≠ Mode.shake128.rate ∧
      (controlAfter (exec .squeeze (at' .squeeze .shake128 168))).isSome ∧
      (at' .squeeze .shake128 168).pos = Mode.shake128.rate) :=
  ⟨⟨inv_absorbing, by decide, by decide, by decide⟩, ⟨inv_lastOfBlock, by decide, by decide, rfl, by decide, by decide⟩,
    by decide⟩

/-- One witness for each refusal of the order, and one command that none refuses. -/
theorem witness_RefusalsInOrder :
    refusalOf (.wrs 200 0) (at' .absorb .sha3x256 0) = some .wrongPhase ∧
    refusalOf (.init 7 0) (at' .absorb .sha3x256 0) = some .badOperand ∧
    refusalOf (.init 5 63) State.reset = some .invalidLength ∧
    refusalOf .squeeze { at' .squeeze .sha3x512 64 with outcnt := 64 } = some .outputExhausted ∧
    refusalOf .stat State.reset = none ∧ (controlAfter (exec .stat State.reset)).isSome ∧
    (given (.command 0x01FF0000) State.reset).hostInput = .command 0x01FF0000 :: [] := by decide

/-- SQUEEZE at the end of a SHAKE128 block: no refusal holds, and the state has the invariants. -/
theorem witness_RefusalsInOrder_completes :
    refusalOf .squeeze (at' .squeeze .shake128 168) = none ∧ (at' .squeeze .shake128 168).Inv := ⟨by decide, inv_squeezing⟩

/-- R164's example: INIT with reserved bits set and mode 7 is an illegal word. -/
theorem witness_RefusalsInOrder_illegal : decode 0x01FF0000 = .error .reservedBits := rfl

theorem witness_RefusedCommandChangesNothing :
    step (given (.command 0x04000000) State.reset) = .next { State.reset with responses := [] ++ [0x0400] } ∧
    statusField 0x0400 ≠ 0 := ⟨rfl, by decide⟩

theorem witness_PhaseTransitions :
    legalIn .final State.reset.phase = false ∧
    exec .stat State.reset = .next { State.reset with responses := [] ++ [0x0000] } ∧ statusField 0x0000 = 0 ∧
    exec .final State.reset = .next { State.reset with responses := [] ++ [0x0400] } ∧ statusField 0x0400 ≠ 0 :=
  ⟨rfl, rfl, by decide, rfl, by decide⟩

theorem witness_StepKeepsInvariant :
    (given (.command 0x05000000) State.reset).Inv ∧
    step (given (.command 0x05000000) State.reset) = .next { State.reset with responses := [0] } := ⟨inv_given, rfl⟩

theorem witness_CountersStayBounded : (at' .absorb .sha3x512 70).Inv ∧ (at' .absorb .sha3x512 70).phase = .absorb :=
  ⟨inv_absorbing, rfl⟩

theorem witness_EveryStepRuns : (at' .squeeze .shake128 168).Inv := inv_squeezing

theorem witness_CommandsAreDeterministic :
    let s := given (.command 0x05000000) State.reset
    let t := { State.reset with hostInput := [.command 0x05000000, .reset], responses := [7] }
    SameRegisters s t ∧ s.hostInput = .command 0x05000000 :: [] ∧ t.hostInput = .command 0x05000000 :: [.reset] ∧
    step s = .next { State.reset with responses := [0] } := ⟨⟨rfl, rfl, rfl, rfl, rfl⟩, rfl, rfl, rfl⟩

theorem witness_InvocationsAreIsolated :
    (given .reset State.reset).hostInput = (given .reset (withLanes stripes)).hostInput ∧
    (given .reset State.reset).responses = (given .reset (withLanes stripes)).responses ∧
    (given .reset State.reset).hostInput = .reset :: [] := ⟨rfl, rfl, rfl⟩

/-- Two states that differ in a capacity byte, with a STAT on the port. -/
theorem witness_CapacityBytesAreHidden :
    let s := given (.command 0x05000000) (at' .absorb .sha3x512 70)
    let t := { s with lanes := writeByte s.lanes 72 1 }
    s.Inv ∧ s.phase ≠ .idle ∧ SameButCapacity s t ∧ s.lanes ≠ t.lanes ∧ s.hostInput = .command 0x05000000 :: [] ∧
    ¬ ((0x05000000 : CommandWord) = 0x04000000 ∧ s.phase = .squeeze ∧ s.pos = s.mode.rate) ∧
    step s = .next { at' .absorb .sha3x512 70 with responses := [0x0015] } := by
  refine ⟨?_, by decide, ⟨?_, rfl, rfl, rfl, rfl, rfl, rfl⟩, by decide, rfl, by decide, rfl⟩
  · constructor <;> simp [given, at', State.reset, Mode.rate, Mode.outlen]
  · intro a ha
    exact (readByte_writeByte_of_ne _ _ (fun e => by subst e; exact absurd ha (by decide))).symm

theorem witness_ReadsAndWritesRepeat :
    (∀ i ∈ [Instr.rds 0, .stat], (controlAfter (exec i State.reset)).isSome) ∧
    (controlAfter (exec (.wrs 0 1) State.reset)).isSome ∧
    (at' .squeeze .shake128 168).phase = .squeeze ∧
    (at' .squeeze .shake128 168).mode.outlen ≠ some (at' .squeeze .shake128 168).outcnt ∧
    (controlAfter (exec .squeeze (at' .squeeze .shake128 168))).isSome := by decide

theorem witness_WholeLaneSequences :
    let s := { State.reset with hostInput := asEvents (writeLaneCommands 24 0xFF) ++ [] }
    let t := { State.reset with hostInput := asEvents (readLaneCommands 24) ++ [] }
    s.phase = .idle ∧ (writeLaneCommands 24 0xFF).Perm (writeLaneCommands 24 0xFF) ∧
    s.hostInput = asEvents (writeLaneCommands 24 0xFF) ++ [] ∧
    t.phase = .idle ∧ t.hostInput = asEvents (readLaneCommands 24) ++ [] :=
  ⟨rfl, List.Perm.refl _, rfl, rfl, rfl⟩

/-- A tail that leaves one byte, and the empty tail. -/
theorem witness_PaddingLayout : (List.replicate 71 (0xA3 : Byte)).length < 72 ∧ ([] : List Byte).length < 72 := by decide

/-- SHA3-512 of one byte, all of its digest, with just enough room; and SHAKE128 of nothing. -/
theorem witness_CommandsComputeHash :
    (∀ n, Mode.sha3x512.outlen = some n → n.toNat ≤ (64 : BitVec 16).toNat ∧ 64 ≤ n.toNat) ∧
    (∀ n, Mode.shake128.outlen = some n → n.toNat ≤ (0 : BitVec 16).toNat ∧ 0 ≤ n.toNat) ∧
    (let s := { State.reset with
        hostInput := asEvents (.init Mode.sha3x512.code 64 :: (absorbCommands [0xA3] ++ Instr.final :: squeezeCommands 64)) ++ [] }
     s.hostInput =
       asEvents (.init Mode.sha3x512.code 64 :: (absorbCommands [0xA3] ++ Instr.final :: squeezeCommands 64)) ++ []) := by
  refine ⟨?_, ?_, rfl⟩ <;> intro n h <;> cases h; decide

theorem witness_CountersCountBytes :
    (∀ n, Mode.sha3x224.outlen = some n → n.toNat ≤ (28 : BitVec 16).toNat ∧ 28 ≤ n.toNat) ∧
    (let s := { State.reset with
        hostInput := asEvents (.init Mode.sha3x224.code 28 :: (absorbCommands [] ++ Instr.final :: squeezeCommands 28)) ++ [] }
     s.hostInput =
       asEvents (.init Mode.sha3x224.code 28 :: (absorbCommands [] ++ Instr.final :: squeezeCommands 28)) ++ []) := by
  refine ⟨?_, rfl⟩
  intro n h; cases h; decide

theorem witness_DigestSequences :
    (∀ n, Mode.sha3x224.outlen = some n → n.toNat ≤ 28) ∧
    (let s := { State.reset with hostInput := asEvents (digestCommands .sha3x224 28 []) ++ [] }
     s.hostInput = asEvents (digestCommands .sha3x224 28 []) ++ []) ∧
    (Mode.sha3x224.outlen = some 28 ∧ 27 < (28 : BitVec 7).toNat) := by
  refine ⟨?_, rfl, rfl, by decide⟩
  intro n h; cases h; decide

end Sys2Proof.Tests
end

