-- ==== Sys2Proof/Proofs/MemAccess.lean ====
section
/-! MemRead and MemWrite, byte by byte (R10): what each does with its first byte, the bytes MemWrite leaves unchanged, and
MemRead after MemWrite. -/

namespace Sys2Proof.Machine

/-- MemRead of at least one byte: the byte at `a` is the low digit, the bytes behind it are the higher ones. -/
theorem memRead_succ (A : Lanes) (a : Fin Config.stateBytes) (n : Nat) :
    memRead A a (n + 1) = (memRead A (a + 1) n).map fun high => (readByte A a).toNat + 256 * high := by
  simp [memRead]

/-- MemWrite of no bytes only checks its address. -/
theorem memWrite_zero_eq_some_iff {A B : Lanes} {a v : Nat} :
    memWrite A a 0 v = some B ↔ a ≤ Config.stateBytes ∧ A = B := by
  simp [memWrite]

/-- MemWrite of at least one byte: the low digit goes to the byte at `a`, the higher ones behind it. -/
theorem memWrite_succ_eq_some_iff {A B : Lanes} {a n v : Nat} :
    memWrite A a (n + 1) v = some B ↔
      ∃ ha : a < Config.stateBytes,
        memWrite (writeByte A ⟨a, ha⟩ (BitVec.ofNat 8 v)) (a + 1) n (v / 256) = some B := by
  simp [memWrite]

/-- MemWrite is defined wherever R10 allows it. -/
theorem exists_memWrite {a n : Nat} (h : a + n ≤ Config.stateBytes) (A : Lanes) (v : Nat) :
    ∃ B, memWrite A a n v = some B := by
  induction n generalizing A a v with
  | zero => exact ⟨A, memWrite_zero_eq_some_iff.mpr ⟨h, rfl⟩⟩
  | succ n ih =>
    have ha : a < Config.stateBytes := by omega
    have hrest : a + 1 + n ≤ Config.stateBytes := by omega
    obtain ⟨B, hw⟩ := ih hrest (writeByte A ⟨a, ha⟩ (BitVec.ofNat 8 v)) (v / 256)
    exact ⟨B, memWrite_succ_eq_some_iff.mpr ⟨ha, hw⟩⟩

/-- MemWrite leaves the bytes below its first address unchanged. -/
theorem readByte_of_memWrite_of_lt {A B : Lanes} {a n v : Nat} (hw : memWrite A a n v = some B)
    {b : Fin Config.stateBytes} (hb : b.val < a) : readByte B b = readByte A b := by
  induction n generalizing A a v with
  | zero =>
    obtain ⟨-, rfl⟩ := memWrite_zero_eq_some_iff.mp hw
    rfl
  | succ n ih =>
    obtain ⟨ha, hw⟩ := memWrite_succ_eq_some_iff.mp hw
    calc readByte B b
      _ = readByte (writeByte A ⟨a, ha⟩ (BitVec.ofNat 8 v)) b := ih hw (Nat.lt_succ_of_lt hb)
      _ = readByte A b := readByte_writeByte_of_ne _ _ (Fin.ne_of_lt hb)

/-- After MemWrite the bytes written read back as the low `n` base-256 digits of the value. -/
theorem memRead_of_memWrite {A B : Lanes} {a n v : Nat} (hw : memWrite A a n v = some B) :
    memRead B a n = some (v % 256 ^ n) := by
  induction n generalizing A a v with
  | zero =>
    obtain ⟨ha, -⟩ := memWrite_zero_eq_some_iff.mp hw
    simp [memRead, ha, Nat.mod_one]
  | succ n ih =>
    obtain ⟨ha, hw⟩ := memWrite_succ_eq_some_iff.mp hw
    have low : readByte B ⟨a, ha⟩ = BitVec.ofNat 8 v := by
      rw [readByte_of_memWrite_of_lt hw (Nat.lt_succ_self a), readByte_writeByte_self]
    have digits : v % 256 ^ (n + 1) = v % 256 + 256 * (v / 256 % 256 ^ n) := by
      rw [Nat.pow_succ', Nat.mod_mul]
    rw [memRead_succ B ⟨a, ha⟩, ih hw, low, digits]
    simp

/-- Settles O22: MemWrite is defined there, and what it wrote reads back digit by digit. -/
theorem memReadAfterMemWrite : Obligations.MemReadAfterMemWrite := by
  intro A a n v h
  obtain ⟨B, hw⟩ := exists_memWrite h A v
  exact ⟨B, hw, memRead_of_memWrite hw⟩

end Sys2Proof.Machine
end

section
/-! When the sponge commands and the step run, and what they answer then: the equations beside the inversions of
Laws/Meanings.lean. -/

namespace Sys2Proof.Machine

variable {s : State}

/-- A buffer is too small exactly when the mode has an OUTLEN above it (R127). -/
theorem capTooSmall_eq_true_iff {m : Mode} {cap : BitVec 16} :
    capTooSmall m cap = true ↔ ∃ n, m.outlen = some n ∧ cap.toNat < n.toNat := by
  unfold capTooSmall
  split <;> simp [*]

/-- INIT with room for the digest starts the invocation. -/
theorem execInit_of_room {m : Mode} {cap : BitVec 16} (h : capTooSmall m cap = false) (s : State) :
    execInit m.code cap s = complete 0 (startInvocation m s) := by
  simp [execInit, modeOperand_eq_some.mpr rfl, h]

/-- The output is given whole exactly when OUTCNT has reached the OUTLEN of the mode (R133). -/
theorem outputDone_eq_false_iff : outputDone s = false ↔ ∀ n, s.mode.outlen = some n → s.outcnt ≠ n := by
  unfold outputDone
  split
  · simp [*]
  · simp [*]

/-- ABSORB at an address runs. -/
theorem execAbsorb_of_address (hp : s.phase = .absorb) {a : Fin Config.stateBytes} (ha : a.val = s.pos.toNat) (v : Byte) :
    execAbsorb v s = complete 0 (closeBlock (absorbByte a v s)) := by
  rw [execAbsorb, inPhase_of_eq hp, atPos_of_lt ha]

/-- FINAL at an address runs. -/
theorem execFinal_of_address (hp : s.phase = .absorb) {a : Fin Config.stateBytes} (ha : a.val = s.pos.toNat) :
    execFinal s = complete 0 (finishAbsorb a s) := by
  rw [execFinal, inPhase_of_eq hp, atPos_of_lt ha]

/-- SQUEEZE at an address runs while the digest is not given whole. -/
theorem execSqueeze_of_address (hp : s.phase = .squeeze) (hd : outputDone s = false) {a : Fin Config.stateBytes}
    (ha : a.val = (openBlock s).pos.toNat) :
    execSqueeze s = complete (readByte (openBlock s).lanes a) (countOutput (openBlock s)) := by
  rw [execSqueeze, inPhase_of_eq hp, hd]
  exact atPos_of_lt ha

/-- A step that takes a reset clears the registers (R180). -/
theorem step_reset {rest : List HostEvent} (h : s.hostInput = .reset :: rest) :
    step s = .next (clearRegisters { s with hostInput := rest }) := by
  simp [step, takeEvent, h, applyReset]

/-- A command word that decodes runs (R56). -/
theorem step_command {w : CommandWord} {i : Instr} {rest : List HostEvent} (h : s.hostInput = .command w :: rest)
    (hd : decode w = .ok i) : step s = exec i { s with hostInput := rest } := by
  simp [step, takeEvent, h, hd]

/-- An illegal word is refused (R74). -/
theorem step_illegal {w : CommandWord} {e : DecodeError} {rest : List HostEvent} (h : s.hostInput = .command w :: rest)
    (hd : decode w = .error e) : step s = refuse .illegalCommand { s with hostInput := rest } := by
  simp [step, takeEvent, h, hd, illegalWord, refuse]

end Sys2Proof.Machine
end

section
/-! What a command leaves unchanged (10_state.md R23): the fields after each operation of the sponge, the commands that touch
no register but the lanes, and the ports after every command. -/

namespace Sys2Proof.Machine

variable {s t : State}

/-! ### Fields after the sponge's operations -/

@[simp] theorem absorbByte_lanes (a : Fin Config.stateBytes) (v : Byte) (s : State) :
    (absorbByte a v s).lanes = xorByte s.lanes a v := rfl
@[simp] theorem absorbByte_mode (a : Fin Config.stateBytes) (v : Byte) (s : State) : (absorbByte a v s).mode = s.mode := rfl
@[simp] theorem absorbByte_phase (a : Fin Config.stateBytes) (v : Byte) (s : State) :
    (absorbByte a v s).phase = s.phase := rfl
@[simp] theorem absorbByte_pos (a : Fin Config.stateBytes) (v : Byte) (s : State) : (absorbByte a v s).pos = s.pos + 1 := rfl
@[simp] theorem absorbByte_outcnt (a : Fin Config.stateBytes) (v : Byte) (s : State) :
    (absorbByte a v s).outcnt = s.outcnt := rfl
@[simp] theorem absorbByte_hostInput (a : Fin Config.stateBytes) (v : Byte) (s : State) :
    (absorbByte a v s).hostInput = s.hostInput := rfl
@[simp] theorem absorbByte_responses (a : Fin Config.stateBytes) (v : Byte) (s : State) :
    (absorbByte a v s).responses = s.responses := rfl

@[simp] theorem finishAbsorb_lanes (a : Fin Config.stateBytes) (s : State) :
    (finishAbsorb a s).lanes = Keccak.keccakF (padLanes s.mode a s.lanes) := rfl
@[simp] theorem finishAbsorb_mode (a : Fin Config.stateBytes) (s : State) : (finishAbsorb a s).mode = s.mode := rfl
@[simp] theorem finishAbsorb_phase (a : Fin Config.stateBytes) (s : State) : (finishAbsorb a s).phase = .squeeze := rfl
@[simp] theorem finishAbsorb_pos (a : Fin Config.stateBytes) (s : State) : (finishAbsorb a s).pos = 0 := rfl
@[simp] theorem finishAbsorb_outcnt (a : Fin Config.stateBytes) (s : State) : (finishAbsorb a s).outcnt = 0 := rfl
@[simp] theorem finishAbsorb_hostInput (a : Fin Config.stateBytes) (s : State) :
    (finishAbsorb a s).hostInput = s.hostInput := rfl
@[simp] theorem finishAbsorb_responses (a : Fin Config.stateBytes) (s : State) :
    (finishAbsorb a s).responses = s.responses := rfl

/-- Closing a block touches the lanes and POS only. -/
@[simp] theorem closeBlock_mode (s : State) : (closeBlock s).mode = s.mode := by unfold closeBlock; split <;> rfl
@[simp] theorem closeBlock_phase (s : State) : (closeBlock s).phase = s.phase := by unfold closeBlock; split <;> rfl
@[simp] theorem closeBlock_outcnt (s : State) : (closeBlock s).outcnt = s.outcnt := by unfold closeBlock; split <;> rfl
@[simp] theorem closeBlock_hostInput (s : State) : (closeBlock s).hostInput = s.hostInput := by
  unfold closeBlock; split <;> rfl
@[simp] theorem closeBlock_responses (s : State) : (closeBlock s).responses = s.responses := by
  unfold closeBlock; split <;> rfl

/-- Opening one too. -/
@[simp] theorem openBlock_mode (s : State) : (openBlock s).mode = s.mode := closeBlock_mode s
@[simp] theorem openBlock_phase (s : State) : (openBlock s).phase = s.phase := closeBlock_phase s
@[simp] theorem openBlock_outcnt (s : State) : (openBlock s).outcnt = s.outcnt := closeBlock_outcnt s
@[simp] theorem openBlock_hostInput (s : State) : (openBlock s).hostInput = s.hostInput := closeBlock_hostInput s
@[simp] theorem openBlock_responses (s : State) : (openBlock s).responses = s.responses := closeBlock_responses s

/-- OUTCNT counts in the fixed-output modes only (R28). -/
theorem countOutput_outcnt_of_none (h : s.mode.outlen = none) : (countOutput s).outcnt = s.outcnt := by
  simp [countOutput, h]
theorem countOutput_outcnt_of_some {n : BitVec 7} (h : s.mode.outlen = some n) :
    (countOutput s).outcnt = s.outcnt + 1 := by
  simp [countOutput, h]

/-- Modes 0 and 1 are the extendable-output functions, the two without an OUTLEN (R29). -/
theorem Mode.outlen_eq_none_iff (m : Mode) : m.outlen = none ↔ m.code.toNat < 2 := by
  cases m <;> decide

/-- Every OUTLEN is below the RATE of its mode (R29). -/
theorem Mode.outlen_lt_rate {m : Mode} {n : BitVec 7} (h : m.outlen = some n) : n.toNat < m.rate.toNat := by
  cases m <;> simp only [Mode.outlen, Option.some.injEq, reduceCtorEq] at h <;> subst h <;> decide

/-! ### Commands that touch no register but the lanes -/

/-- From `s` to `t` every register but the lanes is kept, the host's events stand as they were, and one response is added. -/
structure KeepsControl (s t : State) : Prop where
  mode : t.mode = s.mode
  phase : t.phase = s.phase
  pos : t.pos = s.pos
  outcnt : t.outcnt = s.outcnt
  hostInput : t.hostInput = s.hostInput
  responses : ∃ r, t.responses = s.responses ++ [r]

theorem raise_keepsControl (st : Status) (s : State) : KeepsControl s (raise st s) :=
  ⟨rfl, rfl, rfl, rfl, rfl, _, rfl⟩

theorem respond_keepsControl (d : Byte) (s : State) : KeepsControl s (respond d s) :=
  ⟨rfl, rfl, rfl, rfl, rfl, _, rfl⟩

theorem respond_setLanes_keepsControl (d : Byte) (A : Lanes) (s : State) :
    KeepsControl s (respond d (s.setLanes A)) :=
  ⟨rfl, rfl, rfl, rfl, rfl, _, rfl⟩

/-- An engine command changes lanes only, and those in IDLE only. -/
theorem mapLanes_keepsControl {f : Lanes → Lanes} (h : mapLanes f s = .next t) :
    KeepsControl s t ∧ (s.phase ≠ .idle → t.lanes = s.lanes) := by
  obtain ⟨hp, rfl⟩ | ⟨hp, rfl⟩ := mapLanes_next h
  · exact ⟨respond_setLanes_keepsControl .., fun h => absurd hp h⟩
  · exact ⟨raise_keepsControl .., fun _ => rfl⟩

theorem mapLanesAt_keepsControl {f : Lanes → Fin Config.roundCount → Lanes} {idx : BitVec 5}
    (h : mapLanesAt f idx s = .next t) : KeepsControl s t ∧ (s.phase ≠ .idle → t.lanes = s.lanes) := by
  obtain ⟨hp, i, -, rfl⟩ | ⟨hp, -, rfl⟩ | ⟨hp, rfl⟩ := mapLanesAt_next h
  · exact ⟨respond_setLanes_keepsControl .., fun h => absurd hp h⟩
  · exact ⟨raise_keepsControl .., fun _ => rfl⟩
  · exact ⟨raise_keepsControl .., fun _ => rfl⟩

/-- WRS is refused, or overwrites the byte at its address. -/
theorem execWrs_next {addr : BitVec 8} {v : Byte} (h : execWrs addr v s = .next t) :
    (∃ a, addrOperand addr = some a ∧ t = respond 0 (s.setLanes (writeByte s.lanes a v))) ∨ ∃ st, t = raise st s := by
  obtain ⟨-, a, ha, h⟩ | ⟨-, -, rfl⟩ | ⟨-, rfl⟩ := atAddress_next h
  · exact .inl ⟨a, addrOperand_eq_some.mpr ha, complete_next.mp h⟩
  · exact .inr ⟨_, rfl⟩
  · exact .inr ⟨_, rfl⟩

/-- RDS is refused, or answers the byte at its address. -/
theorem execRds_next {addr : BitVec 8} (h : execRds addr s = .next t) :
    (∃ a, addrOperand addr = some a ∧ t = respond (readByte s.lanes a) s) ∨ ∃ st, t = raise st s := by
  obtain ⟨-, a, ha, h⟩ | ⟨-, -, rfl⟩ | ⟨-, rfl⟩ := atAddress_next h
  · exact .inl ⟨a, addrOperand_eq_some.mpr ha, complete_next.mp h⟩
  · exact .inr ⟨_, rfl⟩
  · exact .inr ⟨_, rfl⟩

theorem execStat_next (h : execStat s = .next t) : t = respond (statusByte s.mode s.phase) s := complete_next.mp h

theorem execClear_next (h : execClear s = .next t) : t = respond 0 (clearRegisters s) := complete_next.mp h

theorem execWrs_keepsControl {addr : BitVec 8} {v : Byte} (h : execWrs addr v s = .next t) : KeepsControl s t := by
  obtain ⟨a, -, rfl⟩ | ⟨st, rfl⟩ := execWrs_next h
  · exact respond_setLanes_keepsControl ..
  · exact raise_keepsControl ..

theorem execRds_keepsControl {addr : BitVec 8} (h : execRds addr s = .next t) :
    KeepsControl s t ∧ t.lanes = s.lanes := by
  obtain ⟨a, -, rfl⟩ | ⟨st, rfl⟩ := execRds_next h
  · exact ⟨respond_keepsControl .., rfl⟩
  · exact ⟨raise_keepsControl .., rfl⟩

theorem execStat_keepsControl (h : execStat s = .next t) : KeepsControl s t ∧ t.lanes = s.lanes := by
  obtain rfl := execStat_next h
  exact ⟨respond_keepsControl .., rfl⟩

/-- The commands of IDLE and STAT: every command but INIT, ABSORB, FINAL, SQUEEZE and CLEAR keeps the control registers. -/
theorem exec_keepsControl {i : Instr} (h : exec i s = .next t) :
    (∃ mode cap, i = .init mode cap) ∨ (∃ v, i = .absorb v) ∨ i = .final ∨ i = .squeeze ∨ i = .clear ∨
    KeepsControl s t := by
  cases i with
  | init mode cap => exact .inl ⟨mode, cap, rfl⟩
  | absorb v => exact .inr (.inl ⟨v, rfl⟩)
  | final => simp
  | squeeze => simp
  | clear => simp
  | stat => simp [(execStat_keepsControl h).1]
  | permute => simp [(mapLanes_keepsControl h).1]
  | round idx => simp [(mapLanesAt_keepsControl h).1]
  | theta => simp [(mapLanes_keepsControl h).1]
  | rho => simp [(mapLanes_keepsControl h).1]
  | pi => simp [(mapLanes_keepsControl h).1]
  | chi => simp [(mapLanes_keepsControl h).1]
  | iota idx => simp [(mapLanesAt_keepsControl h).1]
  | wrs addr v => simp [execWrs_keepsControl h]
  | rds addr => simp [(execRds_keepsControl h).1]

/-! ### The ports after a command -/

/-- Every command leaves the host's events and adds one response (R77). -/
theorem exec_adds_one_response {i : Instr} (h : exec i s = .next t) :
    t.hostInput = s.hostInput ∧ ∃ r, t.responses = s.responses ++ [r] := by
  obtain ⟨mode, cap, rfl⟩ | ⟨v, rfl⟩ | rfl | rfl | rfl | hk := exec_keepsControl h
  · obtain ⟨-, rfl⟩ | ⟨m, -, -, rfl⟩ | ⟨m, -, -, rfl⟩ := execInit_next h <;> simp
  · obtain ⟨-, a, -, rfl⟩ | ⟨-, rfl⟩ := execAbsorb_next h <;> simp
  · obtain ⟨-, a, -, rfl⟩ | ⟨-, rfl⟩ := execFinal_next h <;> simp
  · obtain ⟨-, -, a, -, rfl⟩ | ⟨-, -, rfl⟩ | ⟨-, rfl⟩ := execSqueeze_next h <;> simp
  · obtain rfl := execClear_next h
    simp
  · exact ⟨hk.hostInput, hk.responses⟩

end Sys2Proof.Machine
end

section
/-! The invariants of the reachable states (10_state.md R37): they hold at reset and every step keeps them. -/

namespace Sys2Proof.Machine

variable {s t : State}

/-- The invariants speak of MODE, PHASE, POS and OUTCNT only. -/
theorem State.Inv.of_control_eq (hs : s.Inv) (hm : t.mode = s.mode) (hp : t.phase = s.phase) (hpos : t.pos = s.pos)
    (hout : t.outcnt = s.outcnt) : t.Inv := by
  obtain ⟨idle, absorb, squeeze, counted, unbounded⟩ := hs
  constructor <;> simpa only [hm, hp, hpos, hout]

theorem State.Inv.of_keepsControl (hs : s.Inv) (hk : KeepsControl s t) : t.Inv :=
  hs.of_control_eq hk.mode hk.phase hk.pos hk.outcnt

theorem State.Inv.raise (hs : s.Inv) (st : Status) : (raise st s).Inv := hs.of_keepsControl (raise_keepsControl ..)

theorem State.Inv.respond (hs : s.Inv) (d : Byte) : (respond d s).Inv := hs.of_keepsControl (respond_keepsControl ..)

/-- What the host does next is no matter of the invariants. -/
theorem State.Inv.setHostInput (hs : s.Inv) (rest : List HostEvent) : State.Inv { s with hostInput := rest } :=
  hs.of_control_eq rfl rfl rfl rfl

theorem clearRegisters_inv (s : State) : (clearRegisters s).Inv := by
  constructor <;> simp [Mode.outlen]

/-- From POS below RATE an absorbing state with OUTCNT 0 has the invariants. -/
theorem inv_of_absorb (hp : s.phase = .absorb) (hpos : s.pos.toNat < s.mode.rate.toNat) (hout : s.outcnt = 0) : s.Inv := by
  constructor <;> simp [hp, hout]
  omega

theorem startInvocation_inv (m : Mode) (s : State) : (startInvocation m s).Inv :=
  inv_of_absorb rfl (by have := m.rate_bounds; simp; omega) rfl

theorem finishAbsorb_inv (a : Fin Config.stateBytes) (s : State) : (finishAbsorb a s).Inv := by
  constructor <;> simp
  exact fun _ => Mode.outlen_lt_rate

/-- POS below RATE does not wrap when it advances. -/
theorem pos_succ_toNat (h : s.pos.toNat < s.mode.rate.toNat) : (s.pos + 1).toNat = s.pos.toNat + 1 := by
  have := s.mode.rate_bounds
  bv_omega

/-- Absorbing a byte below RATE: POS is the next one modulo RATE, since a full block is closed at once (R131). -/
theorem closeBlock_absorbByte_pos (h : s.pos.toNat < s.mode.rate.toNat) (a : Fin Config.stateBytes) (v : Byte) :
    (closeBlock (absorbByte a v s)).pos.toNat = (s.pos.toNat + 1) % s.mode.rate.toNat := by
  have hsucc := pos_succ_toNat h
  by_cases hc : (absorbByte a v s).pos = (absorbByte a v s).mode.rate
  · have heq : s.pos.toNat + 1 = s.mode.rate.toNat := by rw [← hsucc]; exact congrArg BitVec.toNat hc
    rw [closeBlock_of_eq hc, heq]
    simp
  · have hne : s.pos.toNat + 1 ≠ s.mode.rate.toNat := fun e => hc (BitVec.eq_of_toNat_eq (hsucc.trans e))
    rw [closeBlock_of_ne hc, absorbByte_pos, hsucc, Nat.mod_eq_of_lt (by omega)]

theorem execAbsorb_keeps_inv {v : Byte} (hs : s.Inv) (h : execAbsorb v s = .next t) : t.Inv := by
  obtain ⟨hp, a, -, rfl⟩ | ⟨-, rfl⟩ := execAbsorb_next h
  · obtain ⟨hpos, hout⟩ := hs.absorb hp
    have hrate := s.mode.rate_bounds
    refine (inv_of_absorb ?_ ?_ ?_).respond 0
    · simpa using hp
    · rw [closeBlock_absorbByte_pos hpos]
      simpa using Nat.mod_lt _ (by omega)
    · simpa using hout
  · exact hs.raise _

/-- Giving a byte at or below RATE: POS is the byte's place in its block plus 1, since a used-up block is replaced first
(R133). -/
theorem countOutput_openBlock_pos (h : s.pos.toNat ≤ s.mode.rate.toNat) :
    (countOutput (openBlock s)).pos.toNat = s.pos.toNat % s.mode.rate.toNat + 1 := by
  rw [countOutput_pos, openBlock_eq_closeBlock]
  by_cases hc : s.pos = s.mode.rate
  · rw [closeBlock_of_eq hc]
    simp [hc]
  · have hlt : s.pos.toNat < s.mode.rate.toNat := lt_of_le_of_ne h fun e => hc (BitVec.eq_of_toNat_eq e)
    rw [closeBlock_of_ne hc, pos_succ_toNat hlt, Nat.mod_eq_of_lt hlt]

/-- Giving a byte of a digest that is not given whole: OUTCNT advances by 1 without a wrap in the fixed-output modes, and
stands in the others (R133). -/
theorem countOutput_openBlock_outcnt (h : ∀ n, s.mode.outlen = some n → s.outcnt.toNat < n.toNat) :
    (countOutput (openBlock s)).outcnt.toNat = s.outcnt.toNat + (if s.mode.outlen = none then 0 else 1) := by
  cases hn : s.mode.outlen with
  | none => rw [countOutput_outcnt_of_none (by simpa using hn)]; simp
  | some n =>
    have hlt := h n hn
    rw [countOutput_outcnt_of_some (n := n) (by simpa using hn), openBlock_outcnt]
    simp only [reduceCtorEq, if_false]
    bv_omega

/-- Below OUTLEN the block that FINAL left is never used up, so the byte count of a digest is the position in it (R37 g). -/
theorem State.Inv.outcnt_lt (hs : s.Inv) (hp : s.phase = .squeeze) (hd : outputDone s = false) :
    ∀ n, s.mode.outlen = some n → s.outcnt.toNat < n.toNat := by
  intro n hn
  obtain ⟨heq, hle, -⟩ := hs.counted n hp hn
  have hne : s.outcnt.toNat ≠ n.toNat := fun e => outputDone_eq_false_iff.mp hd n hn (BitVec.eq_of_toNat_eq e)
  omega

theorem execSqueeze_keeps_inv (hs : s.Inv) (h : execSqueeze s = .next t) : t.Inv := by
  obtain ⟨hp, hd, a, -, rfl⟩ | ⟨-, -, rfl⟩ | ⟨-, rfl⟩ := execSqueeze_next h
  · refine State.Inv.respond ?_ _
    have hlt := hs.outcnt_lt hp hd
    have hmode : (countOutput (openBlock s)).mode = s.mode := by simp
    have hpos := countOutput_openBlock_pos (hs.squeeze hp)
    have hout := countOutput_openBlock_outcnt hlt
    have hmod : s.pos.toNat % s.mode.rate.toNat < s.mode.rate.toNat :=
      Nat.mod_lt _ (by have := s.mode.rate_bounds; omega)
    constructor
    case idle => simp [hp]
    case absorb => simp [hp]
    case squeeze =>
      intro _
      rw [hpos, hmode]
      exact hmod
    case counted =>
      intro n _ hn
      rw [hmode] at hn
      obtain ⟨heq, -, hrate⟩ := hs.counted n hp hn
      have hlt := hlt n hn
      rw [hpos, hout, hmode, Nat.mod_eq_of_lt (by omega)]
      simp only [hn, reduceCtorEq, if_false]
      omega
    case unbounded =>
      intro hn
      rw [hmode] at hn
      apply BitVec.eq_of_toNat_eq
      simp [hout, hn, hs.unbounded hn]
  · exact hs.raise _
  · exact hs.raise _

/-- Every command keeps the invariants. -/
theorem exec_keeps_inv {i : Instr} (hs : s.Inv) (h : exec i s = .next t) : t.Inv := by
  obtain ⟨mode, cap, rfl⟩ | ⟨v, rfl⟩ | rfl | rfl | rfl | hk := exec_keepsControl h
  · obtain ⟨-, rfl⟩ | ⟨m, -, -, rfl⟩ | ⟨m, -, -, rfl⟩ := execInit_next h
    · exact hs.raise _
    · exact hs.raise _
    · exact (startInvocation_inv m s).respond 0
  · exact execAbsorb_keeps_inv hs h
  · obtain ⟨-, a, -, rfl⟩ | ⟨-, rfl⟩ := execFinal_next h
    · exact (finishAbsorb_inv a s).respond 0
    · exact hs.raise _
  · exact execSqueeze_keeps_inv hs h
  · obtain rfl := execClear_next h
    exact (clearRegisters_inv s).respond 0
  · exact hs.of_keepsControl hk

/-- Settles O48: every command keeps the invariants, and so do a reset, an illegal word and waiting. -/
theorem stepKeepsInvariant : Obligations.StepKeepsInvariant := by
  intro s t hs h
  obtain ⟨-, rfl⟩ | ⟨rest, -, rfl⟩ | ⟨w, rest, i, -, -, h⟩ | ⟨w, rest, e, -, -, rfl⟩ := step_next h
  · exact hs
  · exact clearRegisters_inv _
  · exact exec_keeps_inv (hs.setHostInput rest) h
  · exact (hs.setHostInput rest).raise _

/-- Settles O47: the reset state is what a reset leaves. -/
theorem invariantAtReset : Obligations.InvariantAtReset := clearRegisters_inv State.reset

end Sys2Proof.Machine
end

section
/-! The frames of the commands (10_state.md R23): the engine commands, raw access and STAT, and the sponge commands. -/

namespace Sys2Proof.Machine

variable {s t : State}

/-! ### The engine commands -/

/-- rho leaves lane 0: its offset is 0 (R93). -/
theorem Keccak.rho_lane_zero (A : Lanes) : (Keccak.rho A)[0] = A[0] := by
  simp [Keccak.rho, Keccak.rol64, rotationOffsets]

/-- pi leaves lane 0: `(0, 0)` is its fixed point (R94). -/
theorem Keccak.pi_lane_zero (A : Lanes) : (Keccak.pi A)[0] = A[0] := by
  simp [Keccak.pi, Keccak.ofCoordinates, Keccak.lane, Keccak.column, Keccak.row]

/-- iota leaves every lane but lane 0 (R96). -/
theorem Keccak.iota_lane_of_ne (A : Lanes) (i : Fin Config.roundCount) {j : Fin Config.laneCount} (hj : j ≠ 0) :
    (Keccak.iota A i)[j] = A[j] :=
  Vector.getElem_set_ne _ _ fun h => hj (Fin.ext h.symm)

theorem mapLanes_lane_zero {f : Lanes → Lanes} (hf : ∀ A, (f A)[0] = A[0]) (h : mapLanes f s = .next t) :
    t.lanes[0] = s.lanes[0] := by
  obtain ⟨-, rfl⟩ | ⟨-, rfl⟩ := mapLanes_next h
  · exact hf s.lanes
  · rfl

theorem execIota_lane_of_ne {idx : BitVec 5} (h : execIota idx s = .next t) {j : Fin Config.laneCount} (hj : j ≠ 0) :
    t.lanes[j] = s.lanes[j] := by
  obtain ⟨-, i, -, rfl⟩ | ⟨-, -, rfl⟩ | ⟨-, rfl⟩ := mapLanesAt_next h
  · exact Keccak.iota_lane_of_ne s.lanes i hj
  · rfl
  · rfl

/-- The seven engine commands keep the control registers, and out of IDLE the lanes too. -/
theorem exec_engine_keepsControl {i : Instr} {idx : BitVec 5}
    (hi : i ∈ [.permute, .round idx, .theta, .rho, .pi, .chi, .iota idx]) (h : exec i s = .next t) :
    KeepsControl s t ∧ (s.phase ≠ .idle → t.lanes = s.lanes) := by
  simp only [List.mem_cons, List.not_mem_nil, or_false] at hi
  obtain rfl | rfl | rfl | rfl | rfl | rfl | rfl := hi
  · exact mapLanes_keepsControl h
  · exact mapLanesAt_keepsControl h
  · exact mapLanes_keepsControl h
  · exact mapLanes_keepsControl h
  · exact mapLanes_keepsControl h
  · exact mapLanes_keepsControl h
  · exact mapLanesAt_keepsControl h

/-- Settles O40: the seven commands share two shapes, and rho, pi and iota leave the lanes named. -/
theorem engineCommandsFrame : Obligations.EngineCommandsFrame := by
  intro s t idx i hi h
  obtain ⟨⟨hmode, hphase, hpos, hout, hin, hresp⟩, hlanes⟩ := exec_engine_keepsControl hi h
  refine ⟨hmode, hphase, hpos, hout, hin, hresp, ?_, ?_, hlanes⟩
  · rintro rfl j hj
    exact execIota_lane_of_ne h hj
  · rintro (rfl | rfl)
    · exact mapLanes_lane_zero Keccak.rho_lane_zero h
    · exact mapLanes_lane_zero Keccak.pi_lane_zero h

/-! ### Raw access and STAT -/

theorem KeepsControl.sameRegisters (hk : KeepsControl s t) (hl : t.lanes = s.lanes) : SameRegisters s t :=
  ⟨hl.symm, hk.mode.symm, hk.phase.symm, hk.pos.symm, hk.outcnt.symm⟩

/-- WRS leaves every byte but the one its operand names (R150). -/
theorem execWrs_readByte_of_ne {addr : BitVec 8} {v : Byte} (h : execWrs addr v s = .next t) {b : Fin Config.stateBytes}
    (hb : some b ≠ addrOperand addr) : readByte t.lanes b = readByte s.lanes b := by
  obtain ⟨a, ha, rfl⟩ | ⟨st, rfl⟩ := execWrs_next h
  · exact readByte_writeByte_of_ne _ _ fun e => hb (by rw [e, ha])
  · rfl

/-- RDS and STAT only add a response. -/
theorem exec_read_keepsControl {i : Instr} {addr : BitVec 8} (hi : i ∈ [.rds addr, .stat]) (h : exec i s = .next t) :
    KeepsControl s t ∧ t.lanes = s.lanes := by
  simp only [List.mem_cons, List.not_mem_nil, or_false] at hi
  obtain rfl | rfl := hi
  · exact execRds_keepsControl h
  · exact execStat_keepsControl h

/-- Settles O41: RDS and STAT keep the lanes, WRS overwrites one byte at most. -/
theorem rawAccessFrame : Obligations.RawAccessFrame := by
  refine ⟨fun s t addr i hi h => ?_, fun s t addr v h => ?_⟩
  · obtain ⟨hk, hl⟩ := exec_read_keepsControl hi h
    exact ⟨hk.sameRegisters hl, hk.hostInput, hk.responses⟩
  · obtain ⟨hmode, hphase, hpos, hout, hin, hresp⟩ := execWrs_keepsControl h
    exact ⟨hmode, hphase, hpos, hout, hin, hresp, fun b hb => execWrs_readByte_of_ne h hb⟩

/-! ### The sponge commands -/

/-- ABSORB keeps MODE, PHASE and OUTCNT. -/
theorem execAbsorb_control {v : Byte} (h : execAbsorb v s = .next t) :
    t.mode = s.mode ∧ t.phase = s.phase ∧ t.outcnt = s.outcnt := by
  obtain ⟨-, a, -, rfl⟩ | ⟨-, rfl⟩ := execAbsorb_next h <;> simp

/-- An ABSORB that completes no block leaves every byte but the one at POS (R59). -/
theorem execAbsorb_readByte_of_ne {v : Byte} (h : execAbsorb v s = .next t) (hc : s.pos + 1 ≠ s.mode.rate)
    {a b : Fin Config.stateBytes} (ha : stateAddress s.pos = some a) (hb : b ≠ a) :
    readByte t.lanes b = readByte s.lanes b := by
  obtain ⟨-, c, hca, rfl⟩ | ⟨-, rfl⟩ := execAbsorb_next h
  · obtain rfl : c = a := Fin.ext (hca.trans (stateAddress_eq_some.mp ha).symm)
    rw [closeBlock_of_ne hc]
    simp [readByte_xorByte, hb]
  · rfl

/-- SQUEEZE keeps MODE and PHASE. -/
theorem execSqueeze_control (h : execSqueeze s = .next t) : t.mode = s.mode ∧ t.phase = s.phase := by
  obtain ⟨-, -, a, -, rfl⟩ | ⟨-, -, rfl⟩ | ⟨-, rfl⟩ := execSqueeze_next h <;> simp

/-- SQUEEZE keeps OUTCNT in the extendable-output modes (R28). -/
theorem execSqueeze_outcnt (h : execSqueeze s = .next t) (hm : s.mode.outlen = none) : t.outcnt = s.outcnt := by
  obtain ⟨-, -, a, -, rfl⟩ | ⟨-, -, rfl⟩ | ⟨-, rfl⟩ := execSqueeze_next h
  · simp [countOutput_outcnt_of_none, hm]
  · rfl
  · rfl

/-- SQUEEZE keeps the lanes unless the block is used up (R133). -/
theorem execSqueeze_lanes (h : execSqueeze s = .next t) (hc : s.pos ≠ s.mode.rate) : t.lanes = s.lanes := by
  obtain ⟨-, -, a, -, rfl⟩ | ⟨-, -, rfl⟩ | ⟨-, rfl⟩ := execSqueeze_next h
  · simp [openBlock_eq_closeBlock, closeBlock_of_ne hc]
  · rfl
  · rfl

theorem execFinal_mode (h : execFinal s = .next t) : t.mode = s.mode := by
  obtain ⟨-, a, -, rfl⟩ | ⟨-, rfl⟩ := execFinal_next h <;> rfl

/-- Settles O42: each command's own frame, and the ports as after every command. -/
theorem spongeCommandsFrame : Obligations.SpongeCommandsFrame := by
  refine ⟨fun s t v h => ?_, fun s t h => ?_, fun s t h => execFinal_mode h,
    fun s t mode cap v i _ h => exec_adds_one_response h⟩
  · obtain ⟨hmode, hphase, hout⟩ := execAbsorb_control h
    exact ⟨hmode, hphase, hout, fun hc a ha b hb => execAbsorb_readByte_of_ne h hc ha hb⟩
  · obtain ⟨hmode, hphase⟩ := execSqueeze_control h
    refine ⟨hmode, hphase, fun hm => execSqueeze_outcnt h (s.mode.outlen_eq_none_iff.mpr hm), fun hc b => ?_⟩
    rw [execSqueeze_lanes h hc]

end Sys2Proof.Machine
end

section
/-! The table of reset values (10_state.md R36), what a new invocation forgets (R24), and the constant tables (R26, R29, R32,
R33). -/

namespace Sys2Proof.Machine

variable {s t : State}

/-! ### Reset values -/

@[simp] theorem zeroLanes_getElem (i : Nat) (hi : i < Config.laneCount) : zeroLanes[i] = 0 := by
  simp [zeroLanes]

/-- A completed INIT is told from a refused one by its response word 0x0000. -/
theorem execInit_next_of_ok {mode : BitVec 3} {cap : BitVec 16} (h : execInit mode cap s = .next t)
    (hr : t.responses = s.responses ++ [0x0000]) : ∃ m, t = respond 0 (startInvocation m s) := by
  obtain ⟨-, rfl⟩ | ⟨m, -, -, rfl⟩ | ⟨m, -, -, rfl⟩ := execInit_next h
  · simp [responseWord, Status.code] at hr
  · simp [responseWord, Status.code] at hr
  · exact ⟨m, rfl⟩

/-- Settles O7: CLEAR, a completed INIT and a completed FINAL each set the registers named. -/
theorem resetValues : Obligations.ResetValues := by
  refine ⟨⟨fun i => zeroLanes_getElem _ _, rfl, rfl, rfl, rfl⟩, fun s t h => ?_, fun s t mode cap h hr => ?_,
    fun s t hp h => ?_⟩
  · obtain rfl := execClear_next h
    exact ⟨fun i => zeroLanes_getElem _ _, rfl, rfl, rfl, rfl⟩
  · obtain ⟨m, rfl⟩ := execInit_next_of_ok h hr
    exact ⟨fun i => zeroLanes_getElem _ _, rfl, rfl⟩
  · obtain ⟨-, a, -, rfl⟩ | ⟨hne, -⟩ := execFinal_next h
    · exact ⟨rfl, rfl⟩
    · exact absurd hp hne

/-! ### Isolation of invocations -/

/-- Cleared registers depend on the ports only. -/
theorem clearRegisters_eq_of_ports (hin : s.hostInput = t.hostInput) (hr : s.responses = t.responses) :
    clearRegisters s = clearRegisters t :=
  State.ext_fields rfl rfl rfl rfl rfl hin hr

/-- The registers at the start of an invocation depend on its mode and the ports only. -/
theorem startInvocation_eq_of_ports (m : Mode) (hin : s.hostInput = t.hostInput) (hr : s.responses = t.responses) :
    startInvocation m s = startInvocation m t :=
  State.ext_fields rfl rfl rfl rfl rfl hin hr

/-- Settles O52: the three leave a state built from the ports alone. -/
theorem invocationsAreIsolated : Obligations.InvocationsAreIsolated := by
  intro s t hin hr
  refine ⟨fun m cap => ?_, congrArg (complete 0) (clearRegisters_eq_of_ports hin hr), fun rest hs => ?_⟩
  · cases hc : capTooSmall m cap with
    | true => exact .inr (capTooSmall_eq_true_iff.mp hc)
    | false =>
      left
      show execInit m.code cap s = execInit m.code cap t
      rw [execInit_of_room hc, execInit_of_room hc, startInvocation_eq_of_ports m hin hr]
  · rw [step_reset hs, step_reset (hin ▸ hs)]
    exact congrArg _ (clearRegisters_eq_of_ports rfl hr)

/-! ### The constant tables -/

/-- Every RATE is a whole number of lanes (R29). -/
theorem Mode.rate_mod_eight (m : Mode) : m.rate.toNat % 8 = 0 := by
  cases m <;> rfl

/-- The table RC is what the LFSR generates (R32). -/
theorem roundConstants_eq_generatedConstant (i : Fin Config.roundCount) :
    roundConstants[i] = generatedConstant (lfsrBits 168 [true, false, false, false, false, false, false, false]) i.val := by
  revert i
  decide +kernel

/-- The table RHO is what the walk over the lanes gives (R33). -/
theorem rotationOffsets_eq_offsetWalk : ∀ p ∈ offsetWalk 24 0 1 0, rotationOffsets[p.1]? = some p.2 := by
  decide

/-- Settles O11: the printed entries by evaluation, the tables' laws by the lemmas above. -/
theorem constantTables : Obligations.ConstantTables := by
  refine ⟨⟨rfl, rfl, rfl, rfl⟩, ⟨rfl, rfl, rfl, rfl⟩, ⟨rfl, rfl, rfl, rfl⟩, ⟨rfl, rfl, rfl, rfl⟩, ⟨rfl, rfl, rfl, rfl⟩,
    ⟨rfl, rfl, rfl, rfl⟩, ⟨rfl, rfl, rfl⟩, rfl, rfl, rfl, rfl, rfl, rfl, rfl, rfl, rfl, rfl, rfl, rfl, rfl, rfl, rfl, rfl,
    rfl, rfl, rfl, rfl, rfl, rfl, rfl, rfl, Mode.rate_mod_eight, fun _ _ => Mode.outlen_lt_rate,
    roundConstants_eq_generatedConstant, rotationOffsets_eq_offsetWalk, rfl⟩

end Sys2Proof.Machine
end

section
/-! The decoder undoes the encoder (30_encoding.md R72, R73): at most one row of the opcode map matches a word, and the
operands of an encoded command read back. -/

namespace Sys2Proof

/-! ### The rows of the opcode map -/

/-- Every row fixes the opcode field whole. -/
theorem opField_mask {r : OpcodeRow} (hr : r ∈ opcodeTable) : opField r.mask = BitVec.allOnes 8 := by
  revert r
  decide

/-- The opcodes of the rows differ. -/
theorem opcodes_nodup : (opcodeTable.map fun r => opField r.pattern).Nodup := by decide

/-- A word that matches a row has the row's opcode. -/
theorem opField_of_matches {r : OpcodeRow} (hr : r ∈ opcodeTable) {w : CommandWord} (h : w &&& r.mask = r.pattern) :
    opField w = opField r.pattern := by
  have hm := opField_mask hr
  rw [← h]
  simp only [opField] at hm ⊢
  rw [BitVec.extractLsb'_and, hm, BitVec.and_allOnes]

/-- At most one row matches a word (R72). -/
theorem row_unique {r q : OpcodeRow} (hr : r ∈ opcodeTable) (hq : q ∈ opcodeTable) {w : CommandWord}
    (hwr : w &&& r.mask = r.pattern) (hwq : w &&& q.mask = q.pattern) : r = q :=
  List.inj_on_of_nodup_map opcodes_nodup hr hq ((opField_of_matches hr hwr).symm.trans (opField_of_matches hq hwq))

/-- A word decodes to the command `i` exactly when a row matches it and assembles `i`. -/
theorem decode_eq_ok_iff {w : CommandWord} {i : Instr} :
    decode w = .ok i ↔ ∃ r ∈ opcodeTable, w &&& r.mask = r.pattern ∧ r.assemble w = i := by
  unfold decode
  cases hf : opcodeTable.find? (fun r => r.matches w) with
  | none =>
    have hno := List.find?_eq_none.mp hf
    simp only [reduceCtorEq, false_iff, not_exists, not_and]
    exact fun r hr hw => absurd (by simpa [OpcodeRow.matches] using hw) (hno r hr)
  | some q =>
    have hq := List.mem_of_find?_eq_some hf
    have hwq : w &&& q.mask = q.pattern := by simpa [OpcodeRow.matches] using List.find?_some hf
    simp only [Except.ok.injEq]
    constructor
    · exact fun h => ⟨q, hq, hwq, h⟩
    · rintro ⟨r, hr, hwr, h⟩
      rwa [row_unique hq hr hwq hwr]

/-! ### The operands of an encoded command -/

theorem idxField_encodeI (op : BitVec 8) (idx : BitVec 5) : idxField (encodeI op idx) = idx :=
  BitVec.extractLsb'_append_eq_right

theorem capField_encode_init (mode : BitVec 3) (cap : BitVec 16) : capField (encode (.init mode cap)) = cap :=
  BitVec.extractLsb'_append_eq_right

theorem modeField_encode_init (mode : BitVec 3) (cap : BitVec 16) : modeField (encode (.init mode cap)) = mode := by
  apply BitVec.eq_of_getLsbD_eq
  intro j hj
  rw [modeField, BitVec.getLsbD_extractLsb', getLsbD_encode_init]
  simp [hj, show 16 + j < 19 by omega]

theorem imm8Field_encode_absorb (v : Byte) : imm8Field (encode (.absorb v)) = v :=
  BitVec.extractLsb'_append_eq_right

theorem imm8Field_encode_wrs (addr : BitVec 8) (v : Byte) : imm8Field (encode (.wrs addr v)) = v :=
  BitVec.extractLsb'_append_eq_right

theorem addrField_encode_wrs (addr : BitVec 8) (v : Byte) : addrField (encode (.wrs addr v)) = addr := by
  apply BitVec.eq_of_getLsbD_eq
  intro j hj
  rw [addrField, BitVec.getLsbD_extractLsb', getLsbD_encode_wrs]
  simp [hj, show 8 + j < 16 by omega]

theorem addrField_encode_rds (addr : BitVec 8) : addrField (encode (.rds addr)) = addr := by
  apply BitVec.eq_of_getLsbD_eq
  intro j hj
  rw [addrField, BitVec.getLsbD_extractLsb', getLsbD_encode_rds]
  simp [hj, show 8 + j < 16 by omega]

/-- The row with a command's mnemonic reads its operands back from its word. -/
theorem assemble_encode (i : Instr) : ∀ r ∈ opcodeTable, r.mnemonic = Machine.mnemonicOf i → r.assemble (encode i) = i := by
  cases i <;> simp [opcodeTable, Machine.mnemonicOf, capField_encode_init, modeField_encode_init, imm8Field_encode_absorb,
    imm8Field_encode_wrs, addrField_encode_wrs, addrField_encode_rds]
  · exact idxField_encodeI _ _
  · exact idxField_encodeI _ _

/-- The word of every command matches the row with its mnemonic. -/
theorem encode_matches (i : Instr) : Laws.MatchesRow.Statement i := by
  cases i with
  | init mode cap => exact Laws.MatchesRow.init mode cap
  | absorb v => exact Laws.MatchesRow.absorb v
  | final => exact Laws.MatchesRow.final
  | squeeze => exact Laws.MatchesRow.squeeze
  | stat => exact Laws.MatchesRow.stat
  | clear => exact Laws.MatchesRow.clear
  | permute => exact Laws.MatchesRow.permute
  | round idx => exact Laws.MatchesRow.round idx
  | theta => exact Laws.MatchesRow.theta
  | rho => exact Laws.MatchesRow.rho
  | pi => exact Laws.MatchesRow.pi
  | chi => exact Laws.MatchesRow.chi
  | iota idx => exact Laws.MatchesRow.iota idx
  | wrs addr v => exact Laws.MatchesRow.wrs addr v
  | rds addr => exact Laws.MatchesRow.rds addr

/-- Decoding gives an encoded command back. -/
theorem decode_encode (i : Instr) : decode (encode i) = .ok i := by
  obtain ⟨r, hr, hname, hmatch⟩ := encode_matches i
  exact decode_eq_ok_iff.mpr ⟨r, hr, hmatch, assemble_encode i r hr hname⟩

/-- The row that assembles SQUEEZE has no operand bits. -/
theorem row_of_squeeze : ∀ r ∈ opcodeTable, ∀ w, r.assemble w = .squeeze →
    r.mask = BitVec.allOnes 32 ∧ r.pattern = 0x04000000 := by
  simp [opcodeTable]

/-- The only word that decodes to SQUEEZE is 0x04000000 (R72). -/
theorem eq_of_decode_eq_squeeze {w : CommandWord} (h : decode w = .ok .squeeze) : w = 0x04000000 := by
  obtain ⟨r, hr, hw, hi⟩ := decode_eq_ok_iff.mp h
  obtain ⟨hmask, hpattern⟩ := row_of_squeeze r hr w hi
  rwa [hmask, hpattern, BitVec.and_allOnes] at hw

end Sys2Proof
end

section
/-! During an invocation a command that does not permute first shows no byte of the capacity part (10_state.md R35,
20_memory.md R60): the two runs compared command by command, along the shared shapes of the meanings. -/

namespace Sys2Proof.Machine

variable {s t : State}

/-! ### Results that answer alike -/

/-- Where the first result is a next state, the second is one with the same responses. -/
def AnswersAlike (r q : Result) : Prop :=
  ∀ s', r = .next s' → ∃ t', q = .next t' ∧ t'.responses = s'.responses

theorem answersAlike_next (h : s.responses = t.responses) : AnswersAlike (.next s) (.next t) := by
  rintro _ ⟨⟩
  exact ⟨t, rfl, h.symm⟩

theorem answersAlike_refuse (st : Status) (h : s.responses = t.responses) : AnswersAlike (refuse st s) (refuse st t) :=
  answersAlike_next (by simp [h])

theorem answersAlike_complete (d : Byte) (h : s.responses = t.responses) : AnswersAlike (complete d s) (complete d t) :=
  answersAlike_next (by simp [h])

/-- In the same phase the phase check decides alike. -/
theorem answersAlike_inPhase {p : Phase} {r q : Result} (hp : s.phase = t.phase) (hr : s.responses = t.responses)
    (h : s.phase = p → AnswersAlike r q) : AnswersAlike (inPhase p s r) (inPhase p t q) := by
  by_cases hs : s.phase = p
  · rw [inPhase_of_eq hs, inPhase_of_eq (hp ▸ hs)]
    exact h hs
  · rw [inPhase_of_ne hs, inPhase_of_ne (hp ▸ hs)]
    exact answersAlike_refuse _ hr

/-- At the same POS the same byte is accessed. -/
theorem answersAlike_atPos {f g : Fin Config.stateBytes → Result} (hpos : s.pos = t.pos)
    (h : ∀ a, a.val = s.pos.toNat → AnswersAlike (f a) (g a)) : AnswersAlike (atPos s f) (atPos t g) := by
  intro s' hs'
  obtain ⟨a, ha, hf⟩ := atPos_next hs'
  obtain ⟨t', hg, hr⟩ := h a ha s' hf
  exact ⟨t', by rw [atPos_of_lt (hpos ▸ ha), hg], hr⟩

/-! ### The commands -/

/-- The commands of IDLE are refused alike during an invocation, whatever the lanes hold. -/
theorem answersAlike_inPhase_idle {r q : Result} (hidle : s.phase ≠ .idle) (hp : s.phase = t.phase)
    (hr : s.responses = t.responses) : AnswersAlike (inPhase .idle s r) (inPhase .idle t q) :=
  answersAlike_inPhase hp hr fun h => absurd h hidle

/-- INIT answers from its operands alone. -/
theorem answersAlike_execInit (mode : BitVec 3) (cap : BitVec 16) (hr : s.responses = t.responses) :
    AnswersAlike (execInit mode cap s) (execInit mode cap t) := by
  unfold execInit
  split
  · exact answersAlike_refuse _ hr
  · split
    · exact answersAlike_refuse _ hr
    · exact answersAlike_complete _ (by simp [hr])

theorem answersAlike_execAbsorb (v : Byte) (h : SameButCapacity s t) :
    AnswersAlike (execAbsorb v s) (execAbsorb v t) :=
  answersAlike_inPhase h.phase h.responses fun _ => answersAlike_atPos h.pos fun _ _ =>
    answersAlike_complete _ (by simp [h.responses])

theorem answersAlike_execFinal (h : SameButCapacity s t) : AnswersAlike (execFinal s) (execFinal t) :=
  answersAlike_inPhase h.phase h.responses fun _ => answersAlike_atPos h.pos fun _ _ =>
    answersAlike_complete _ (by simp [h.responses])

/-- SQUEEZE inside a block answers a byte of the rate part. -/
theorem answersAlike_execSqueeze (hs : s.Inv) (h : SameButCapacity s t)
    (hblock : s.phase = .squeeze → s.pos ≠ s.mode.rate) : AnswersAlike (execSqueeze s) (execSqueeze t) := by
  refine answersAlike_inPhase h.phase h.responses fun hp => ?_
  have hne := hblock hp
  have hlt : s.pos.toNat < s.mode.rate.toNat :=
    lt_of_le_of_ne (hs.squeeze hp) fun e => hne (BitVec.eq_of_toNat_eq e)
  have hdone : outputDone s = outputDone t := by simp [outputDone, h.mode, h.outcnt]
  have hopen_s : openBlock s = s := closeBlock_of_ne hne
  have hopen_t : openBlock t = t := closeBlock_of_ne (h.pos ▸ h.mode ▸ hne)
  rw [← hdone, hopen_s, hopen_t]
  split
  · exact answersAlike_refuse _ h.responses
  · refine answersAlike_atPos h.pos fun a ha => ?_
    rw [h.rateBytes a (ha ▸ hlt)]
    exact answersAlike_complete _ (by simp [h.responses])

/-- STAT answers from MODE and PHASE. -/
theorem answersAlike_execStat (h : SameButCapacity s t) : AnswersAlike (execStat s) (execStat t) := by
  unfold execStat
  rw [h.mode, h.phase]
  exact answersAlike_complete _ h.responses

/-- During an invocation every command but a SQUEEZE that permutes first answers without the capacity part. -/
theorem answersAlike_exec {i : Instr} (hs : s.Inv) (hidle : s.phase ≠ .idle) (h : SameButCapacity s t)
    (hblock : i = .squeeze → s.phase = .squeeze → s.pos ≠ s.mode.rate) : AnswersAlike (exec i s) (exec i t) := by
  cases i with
  | init mode cap => exact answersAlike_execInit mode cap h.responses
  | absorb v => exact answersAlike_execAbsorb v h
  | final => exact answersAlike_execFinal h
  | squeeze => exact answersAlike_execSqueeze hs h (hblock rfl)
  | stat => exact answersAlike_execStat h
  | clear => exact answersAlike_complete _ (by simp [h.responses])
  | permute => exact answersAlike_inPhase_idle hidle h.phase h.responses
  | round idx => exact answersAlike_inPhase_idle hidle h.phase h.responses
  | theta => exact answersAlike_inPhase_idle hidle h.phase h.responses
  | rho => exact answersAlike_inPhase_idle hidle h.phase h.responses
  | pi => exact answersAlike_inPhase_idle hidle h.phase h.responses
  | chi => exact answersAlike_inPhase_idle hidle h.phase h.responses
  | iota idx => exact answersAlike_inPhase_idle hidle h.phase h.responses
  | wrs addr v => exact answersAlike_inPhase_idle hidle h.phase h.responses
  | rds addr => exact answersAlike_inPhase_idle hidle h.phase h.responses

/-- Taking the same events from both ports leaves the agreement. -/
theorem SameButCapacity.setHostInput (h : SameButCapacity s t) (rest : List HostEvent) :
    SameButCapacity { s with hostInput := rest } { t with hostInput := rest } :=
  ⟨h.rateBytes, h.mode, h.phase, h.pos, h.outcnt, rfl, h.responses⟩

/-- Settles O53: the word decodes alike on both ports, and each command answers alike. -/
theorem capacityBytesAreHidden : Obligations.CapacityBytesAreHidden := by
  intro s t s' w rest hs hidle h hin hw hstep
  have hin' : t.hostInput = .command w :: rest := h.hostInput ▸ hin
  have hrest := h.setHostInput rest
  cases hd : decode w with
  | error e =>
    rw [step_illegal hin hd] at hstep
    rw [step_illegal hin' hd]
    exact answersAlike_refuse _ hrest.responses _ hstep
  | ok i =>
    rw [step_command hin hd] at hstep
    rw [step_command hin' hd]
    refine answersAlike_exec (hs.setHostInput rest) hidle hrest ?_ _ hstep
    rintro rfl hp hpos
    exact hw ⟨eq_of_decode_eq_squeeze hd, hp, hpos⟩

end Sys2Proof.Machine
end

section
/-! What POS and OUTCNT count along an invocation (10_state.md R27, R28): each sponge command's effect on the control
registers as numbers, then runs of ABSORB and of SQUEEZE by induction on their length. -/

namespace Sys2Proof.Machine

variable {s t : State} {m : Mode} {p n : Nat}

/-! ### Runs of commands -/

theorem asEvents_append (l k : List Instr) : asEvents (l ++ k) = asEvents l ++ asEvents k := List.map_append

/-- A run of one more step starts with that step. -/
theorem run_succ_of_step (h : step s = .next t) (k : Nat) : core.run (k + 1) s = core.run k t := by
  have hcore : core.step s = .next t := h
  simp only [Host.Core.run, hcore]

/-- A run that starts with an encoded command goes on from the state the command leaves, the other events on the port. -/
theorem run_succ_of_exec {i : Instr} {more : List HostEvent} (hin : s.hostInput = .command (encode i) :: more)
    (h : exec i { s with hostInput := more } = .next t) :
    t.hostInput = more ∧ ∀ k, core.run (k + 1) s = core.run k t :=
  ⟨(exec_adds_one_response h).1, run_succ_of_step ((step_command hin (decode_encode i)).trans h)⟩

/-! ### The control registers as numbers -/

/-- MODE, PHASE, POS and OUTCNT of a state, the counters as numbers. -/
structure State.Control (s : State) (m : Mode) (ph : Phase) (pos outcnt : Nat) : Prop where
  mode : s.mode = m
  phase : s.phase = ph
  pos : s.pos.toNat = pos
  outcnt : s.outcnt.toNat = outcnt

theorem State.Control.setHostInput {ph : Phase} (h : s.Control m ph p n) (more : List HostEvent) :
    State.Control { s with hostInput := more } m ph p n :=
  ⟨h.mode, h.phase, h.pos, h.outcnt⟩

/-- INIT with room for the digest starts both counters at 0. -/
theorem exec_init_control {cap : BitVec 16} (hroom : capTooSmall m cap = false) (s : State) :
    ∃ t, exec (.init m.code cap) s = .next t ∧ t.Control m .absorb 0 0 :=
  ⟨_, execInit_of_room hroom s, rfl, rfl, rfl, rfl⟩

/-- A POS of at most RATE is a byte address. -/
theorem exists_address_of_le_rate {a : Nat} (h : a ≤ m.rate.toNat) : ∃ x : Fin Config.stateBytes, x.val = a :=
  ⟨⟨a, by have := m.rate_bounds; simp only [Config.stateBytes]; omega⟩, rfl⟩

theorem exec_absorb_control (h : s.Control m .absorb p n) (hp : p < m.rate.toNat) (v : Byte) :
    ∃ t, exec (.absorb v) s = .next t ∧ t.Control m .absorb ((p + 1) % m.rate.toNat) n := by
  obtain ⟨rfl, hphase, rfl, rfl⟩ := h
  obtain ⟨a, ha⟩ := exists_address_of_le_rate hp.le
  refine ⟨_, execAbsorb_of_address hphase ha v, ?_, ?_, closeBlock_absorbByte_pos hp a v, ?_⟩ <;> simp [hphase]

theorem exec_final_control (h : s.Control m .absorb p n) (hp : p < m.rate.toNat) :
    ∃ t, exec .final s = .next t ∧ t.Control m .squeeze 0 0 := by
  obtain ⟨rfl, hphase, rfl, rfl⟩ := h
  obtain ⟨a, ha⟩ := exists_address_of_le_rate hp.le
  exact ⟨_, execFinal_of_address hphase ha, rfl, rfl, rfl, rfl⟩

/-- A block position of at most RATE stays an address when SQUEEZE opens the next block. -/
theorem openBlock_pos_le (h : s.pos.toNat ≤ s.mode.rate.toNat) : (openBlock s).pos.toNat ≤ s.mode.rate.toNat := by
  rw [openBlock_eq_closeBlock]
  by_cases hc : s.pos = s.mode.rate
  · rw [closeBlock_of_eq hc]
    simp
  · rwa [closeBlock_of_ne hc]

theorem exec_squeeze_control (h : s.Control m .squeeze p n) (hp : p ≤ m.rate.toNat)
    (hroom : ∀ l, m.outlen = some l → n < l.toNat) :
    ∃ t, exec .squeeze s = .next t ∧
      t.Control m .squeeze (p % m.rate.toNat + 1) (n + if m.outlen = none then 0 else 1) := by
  obtain ⟨rfl, hphase, rfl, rfl⟩ := h
  have hdone : outputDone s = false := outputDone_eq_false_iff.mpr fun l hl e => (hroom l hl).ne (congrArg _ e)
  obtain ⟨a, ha⟩ := exists_address_of_le_rate (openBlock_pos_le hp)
  refine ⟨_, execSqueeze_of_address hphase hdone ha, ?_, ?_, countOutput_openBlock_pos hp,
    countOutput_openBlock_outcnt hroom⟩ <;> simp [hphase]

/-! ### Runs of ABSORB and of SQUEEZE -/

/-- ABSORB of a whole message: POS counts its bytes modulo RATE. -/
theorem run_absorbs_control (M : List Byte) {more : List HostEvent} (h : s.Control m .absorb p n) (hp : p < m.rate.toNat)
    (hin : s.hostInput = asEvents (absorbCommands M) ++ more) :
    ∃ f, core.run M.length s = .next f ∧ f.Control m .absorb ((p + M.length) % m.rate.toNat) n ∧ f.hostInput = more := by
  induction M generalizing s p with
  | nil => exact ⟨s, rfl, by simpa [Nat.mod_eq_of_lt hp] using h, hin⟩
  | cons v M ih =>
    obtain ⟨t, hexec, ht⟩ := exec_absorb_control (h.setHostInput (asEvents (absorbCommands M) ++ more)) hp v
    obtain ⟨htin, hrun⟩ := run_succ_of_exec hin hexec
    obtain ⟨f, hf, hcontrol, hfin⟩ := ih ht (Nat.mod_lt _ (by omega)) htin
    refine ⟨f, (hrun _).trans hf, ?_, hfin⟩
    rwa [Nat.mod_add_mod, Nat.add_assoc, Nat.add_comm 1] at hcontrol

/-- POS after `k` SQUEEZE from POS `p`: the place of the last byte in its block, plus 1 (R27). -/
def posAfterSqueezes (rate p k : Nat) : Nat := if k = 0 then p else (p + (k - 1)) % rate + 1

theorem posAfterSqueezes_succ (rate p k : Nat) :
    posAfterSqueezes rate (p % rate + 1) k = posAfterSqueezes rate p (k + 1) := by
  cases k with
  | zero => simp [posAfterSqueezes]
  | succ k => simp [posAfterSqueezes, Nat.add_assoc, Nat.add_comm 1]

/-- `k` SQUEEZE within the digest: POS starts again in every block, OUTCNT counts in the fixed-output modes. -/
theorem run_squeezes_control (k : Nat) {more : List HostEvent} (h : s.Control m .squeeze p n) (hp : p ≤ m.rate.toNat)
    (hroom : ∀ l, m.outlen = some l → n + k ≤ l.toNat) (hin : s.hostInput = asEvents (squeezeCommands k) ++ more) :
    ∃ t, core.run k s = .next t ∧
      t.Control m .squeeze (posAfterSqueezes m.rate.toNat p k) (n + if m.outlen = none then 0 else k) := by
  induction k generalizing s p n with
  | zero => exact ⟨s, rfl, by simpa [posAfterSqueezes] using h⟩
  | succ k ih =>
    have hnow : ∀ l, m.outlen = some l → n < l.toNat := fun l hl => by have := hroom l hl; omega
    obtain ⟨u, hexec, hu⟩ := exec_squeeze_control (h.setHostInput (asEvents (squeezeCommands k) ++ more)) hp hnow
    obtain ⟨huin, hrun⟩ := run_succ_of_exec hin hexec
    have hle : p % m.rate.toNat + 1 ≤ m.rate.toNat := Nat.mod_lt _ (by have := m.rate_bounds; omega)
    have hlater : ∀ l, m.outlen = some l → (n + if m.outlen = none then 0 else 1) + k ≤ l.toNat := fun l hl => by
      have := hroom l hl
      simp only [hl, reduceCtorEq, if_false]
      omega
    obtain ⟨t, ht, hcontrol⟩ := ih hu hle hlater huin
    refine ⟨t, (hrun _).trans ht, ?_⟩
    rw [posAfterSqueezes_succ] at hcontrol
    convert hcontrol using 1
    split <;> omega

/-- Settles O58: INIT, the run of ABSORB, FINAL and the run of SQUEEZE one after the other. -/
theorem countersCountBytes : Obligations.CountersCountBytes := by
  intro s m cap M k rest hlen hin
  have hrate : 0 < m.rate.toNat := by have := m.rate_bounds; omega
  have hcap : capTooSmall m cap = false := by
    rw [← Bool.not_eq_true, capTooSmall_eq_true_iff]
    rintro ⟨l, hl, hlt⟩
    have := (hlen l hl).1
    omega
  have hin : s.hostInput = .command (encode (.init m.code cap)) ::
      (asEvents (absorbCommands M) ++ (asEvents (.final :: squeezeCommands k) ++ rest)) := by
    rw [hin, ← List.append_assoc, ← asEvents_append]
    rfl
  obtain ⟨s1, hinit, hs1⟩ := exec_init_control hcap
    { s with hostInput := asEvents (absorbCommands M) ++ (asEvents (.final :: squeezeCommands k) ++ rest) }
  obtain ⟨hs1in, hrun1⟩ := run_succ_of_exec hin hinit
  obtain ⟨f, hf, hfc, hfin⟩ := run_absorbs_control M hs1 hrate hs1in
  obtain ⟨g, hfinal, hg⟩ := exec_final_control (hfc.setHostInput (asEvents (squeezeCommands k) ++ rest)) (Nat.mod_lt _ hrate)
  obtain ⟨hgin, hrun2⟩ := run_succ_of_exec hfin hfinal
  obtain ⟨t, ht, htc⟩ := run_squeezes_control k hg hrate.le (fun l hl => by simpa using (hlen l hl).2) hgin
  refine ⟨f, t, (hrun1 _).trans hf, hfc.mode, hfc.phase, ?_, BitVec.eq_of_toNat_eq hfc.outcnt, (hrun2 _).trans ht,
    htc.mode, htc.phase, ?_, ?_⟩
  · simpa using hfc.pos
  · simpa [posAfterSqueezes] using htc.pos
  · simpa using htc.outcnt

end Sys2Proof.Machine
end

section
/-! The byte view of the lanes (20_memory.md R51): a lane is the little-endian number of its eight bytes. -/

namespace Sys2Proof.Machine

/-- Byte `k` of a lane is its base-256 digit `k`. -/
theorem readByte_toNat_of_lane (A : Lanes) (i : Fin Config.laneCount) {k : Nat} (hk : k < 8)
    (ha : 8 * i.val + k < Config.stateBytes) :
    (readByte A ⟨8 * i.val + k, ha⟩).toNat = A[i].toNat / 256 ^ k % 256 := by
  have hlane : (8 * i.val + k) / 8 = i.val := by omega
  have hbyte : (8 * i.val + k) % 8 = k := by omega
  have hpow : 256 ^ k = 2 ^ (8 * k) := by rw [Nat.pow_mul]
  simp [readByte, hlane, hbyte, hpow, Nat.shiftRight_eq_div_pow]

/-- MemRead inside a lane gives the digits of the lane from digit `k` on. -/
theorem memRead_within_lane (A : Lanes) (i : Fin Config.laneCount) {k n : Nat} (h : k + n ≤ 8) :
    memRead A (8 * i.val + k) n = some (A[i].toNat / 256 ^ k % 256 ^ n) := by
  have hi : i.val < 25 := i.isLt
  induction n generalizing k with
  | zero =>
    have ha : 8 * i.val + k ≤ Config.stateBytes := by simp only [Config.stateBytes]; omega
    simp [memRead, ha, Nat.mod_one]
  | succ n ih =>
    have ha : 8 * i.val + k < Config.stateBytes := by simp only [Config.stateBytes]; omega
    have hhigh : memRead A (8 * i.val + k + 1) n = some (A[i].toNat / 256 ^ (k + 1) % 256 ^ n) :=
      ih (k := k + 1) (by omega)
    have hdigits : A[i].toNat / 256 ^ k % 256 ^ (n + 1) =
        A[i].toNat / 256 ^ k % 256 + 256 * (A[i].toNat / 256 ^ (k + 1) % 256 ^ n) := by
      rw [pow_succ' 256 n, Nat.mod_mul, pow_succ 256 k, Nat.div_div_eq_div_mul]
    rw [memRead_succ A ⟨8 * i.val + k, ha⟩, hhigh, readByte_toNat_of_lane A i (by omega) ha, hdigits]
    rfl

/-- Settles O21: a byte's bits are those of its lane, and a lane is the number its eight digits make. -/
theorem bytesAreLittleEndianLanes : Obligations.BytesAreLittleEndianLanes := by
  refine ⟨fun A a j hj => ?_, fun A i => ?_⟩
  · rw [getLsbD_readByte]
    simp [hj]
  · have hfit : A[i].toNat % 256 ^ 8 = A[i].toNat := Nat.mod_eq_of_lt A[i].isLt
    calc memRead A (8 * i.val) 8
      _ = some (A[i].toNat / 256 ^ 0 % 256 ^ 8) := memRead_within_lane A i (k := 0) le_rfl
      _ = some A[i].toNat := by rw [pow_zero, Nat.div_one, hfit]

end Sys2Proof.Machine
end

section
/-! The capacity part (20_memory.md R58): what ABSORB and FINAL XOR in lies below RATE. -/

namespace Sys2Proof.Machine

variable {s t : State}

/-- In phase ABSORB the byte at POS is in the rate part (R37 d). -/
theorem State.Inv.address_lt_rate (hs : s.Inv) (hp : s.phase = .absorb) {a : Fin Config.stateBytes}
    (ha : a.val = s.pos.toNat) : a.val < s.mode.rate.toNat := by
  obtain ⟨hpos, -⟩ := hs.absorb hp
  omega

/-- A byte XORed in below RATE leaves the bytes from RATE on. -/
theorem readByte_xorByte_of_rate_le {m : Mode} {a b : Fin Config.stateBytes} (A : Lanes) (v : Byte)
    (ha : a.val < m.rate.toNat) (hb : m.rate.toNat ≤ b.val) : readByte (xorByte A a v) b = readByte A b := by
  have hne : b ≠ a := fun e => by subst e; omega
  simp [readByte_xorByte, hne]

/-- FINAL's two XORs are both below RATE. -/
theorem readByte_padLanes_of_rate_le {m : Mode} {a b : Fin Config.stateBytes} (A : Lanes)
    (ha : a.val < m.rate.toNat) (hb : m.rate.toNat ≤ b.val) : readByte (padLanes m a A) b = readByte A b := by
  have hlast : m.lastAddress.val < m.rate.toNat := Nat.sub_lt (by have := m.rate_bounds; omega) Nat.one_pos
  rw [padLanes, readByte_xorByte_of_rate_le _ _ hlast hb, readByte_xorByte_of_rate_le _ _ ha hb]

/-- An ABSORB that completes no block leaves the capacity part. -/
theorem execAbsorb_readByte_of_rate_le {v : Byte} (hs : s.Inv) (h : execAbsorb v s = .next t)
    (hc : s.pos + 1 ≠ s.mode.rate) {b : Fin Config.stateBytes} (hb : s.mode.rate.toNat ≤ b.val) :
    readByte t.lanes b = readByte s.lanes b := by
  obtain ⟨hp, a, ha, -⟩ | ⟨-, rfl⟩ := execAbsorb_next h
  · have hlt := hs.address_lt_rate hp ha
    exact execAbsorb_readByte_of_ne h hc (stateAddress_eq_some.mpr ha) fun e => by subst e; omega
  · rfl

/-- An ABSORB that completes a block permutes the lanes with its byte XORed in (R131). -/
theorem execAbsorb_lanes_of_block_end {v : Byte} {a : Fin Config.stateBytes} (hp : s.phase = .absorb)
    (ha : a.val = s.pos.toNat) (hc : s.pos + 1 = s.mode.rate) (h : execAbsorb v s = .next t) :
    t.lanes = Keccak.keccakF (xorByte s.lanes a v) := by
  rw [execAbsorb_of_address hp ha, closeBlock_of_eq hc] at h
  obtain rfl := complete_next.mp h
  rfl

/-- FINAL permutes the padded lanes (R132). -/
theorem execFinal_lanes {a : Fin Config.stateBytes} (hp : s.phase = .absorb) (ha : a.val = s.pos.toNat)
    (h : execFinal s = .next t) : t.lanes = Keccak.keccakF (padLanes s.mode a s.lanes) := by
  rw [execFinal_of_address hp ha] at h
  obtain rfl := complete_next.mp h
  rfl

/-- A SQUEEZE keeps the lanes or permutes them, the latter at the end of a block only (R133). -/
theorem execSqueeze_lanes_kept_or_permuted (h : execSqueeze s = .next t) :
    t.lanes = s.lanes ∨ t.lanes = Keccak.keccakF s.lanes := by
  by_cases hc : s.pos = s.mode.rate
  · obtain ⟨-, -, a, -, rfl⟩ | ⟨-, -, rfl⟩ | ⟨-, rfl⟩ := execSqueeze_next h
    · simp [openBlock_eq_closeBlock, closeBlock_of_eq hc]
    · exact .inl rfl
    · exact .inl rfl
  · exact .inl (execSqueeze_lanes h hc)

/-- Settles O43: in phase ABSORB the invariants put POS below RATE, so every XOR is in the rate part. -/
theorem capacityOnlyPermuted : Obligations.CapacityOnlyPermuted := by
  refine ⟨fun s t v hs h hc b hb => execAbsorb_readByte_of_rate_le hs h hc hb, fun s t v a hs hp ha hc h => ?_,
    fun s t a hs hp ha h => ?_, fun s t h => ⟨execSqueeze_lanes h, execSqueeze_lanes_kept_or_permuted h⟩⟩
  · have hlt := hs.address_lt_rate hp ha
    exact ⟨execAbsorb_lanes_of_block_end hp ha hc h, fun b hb => readByte_xorByte_of_rate_le _ _ hlt hb⟩
  · have hlt := hs.address_lt_rate hp ha
    exact ⟨execFinal_lanes hp ha h, fun b hb => readByte_padLanes_of_rate_le _ hlt hb⟩

end Sys2Proof.Machine
end

section
/-! Repeated reads and writes (20_memory.md R57), and where SQUEEZE and the absorbing commands find no byte at POS (R50). -/

namespace Sys2Proof.Machine

variable {s t u : State}

/-! ### Raw access and STAT given twice -/

/-- Whether a raw access is refused, and which byte it takes, depends on the address and the phase alone (R150, R151). -/
theorem atAddress_cases (addr : BitVec 8) (p : Phase) :
    (∃ a, ∀ (s : State) f, s.phase = p → atAddress addr s f = f a) ∨
    (∃ st, ∀ (s : State) f, s.phase = p → atAddress addr s f = refuse st s) := by
  by_cases hp : p = .idle
  · subst hp
    cases ha : addrOperand addr with
    | none => exact .inr ⟨.badOperand, fun s f hs => by simp [atAddress, inPhase_of_eq hs, ha]⟩
    | some a => exact .inl ⟨a, fun s f hs => by simp [atAddress, inPhase_of_eq hs, ha]⟩
  · exact .inr ⟨.wrongPhase, fun s f hs => inPhase_of_ne (hs ▸ hp)⟩

/-- RDS and STAT answer from the registers alone, and add that answer only. -/
theorem exec_read_answer {i : Instr} {addr : BitVec 8} (hi : i ∈ [.rds addr, .stat]) (s : State) :
    ∃ st d, ∀ s', SameRegisters s s' → exec i s' = .next (emit st d s') := by
  simp only [List.mem_cons, List.not_mem_nil, or_false] at hi
  obtain rfl | rfl := hi
  · obtain ⟨a, hrun⟩ | ⟨st, hrefuse⟩ := atAddress_cases addr s.phase
    · exact ⟨.ok, readByte s.lanes a, fun s' h => by rw [h.lanes]; exact hrun s' _ h.phase.symm⟩
    · exact ⟨st, 0, fun s' h => hrefuse s' _ h.phase.symm⟩
  · exact ⟨.ok, statusByte s.mode s.phase, fun s' h => by rw [h.mode, h.phase]; rfl⟩

/-- RDS or STAT given twice: the second answer is the first. -/
theorem exec_read_twice {i : Instr} {addr : BitVec 8} (hi : i ∈ [.rds addr, .stat]) (h : exec i s = .next t)
    (h' : exec i t = .next u) :
    SameRegisters t u ∧ ∃ r, t.responses = s.responses ++ [r] ∧ u.responses = t.responses ++ [r] := by
  obtain ⟨st, d, hanswer⟩ := exec_read_answer hi s
  obtain ⟨⟩ := h.symm.trans (hanswer s ⟨rfl, rfl, rfl, rfl, rfl⟩)
  obtain ⟨⟩ := h'.symm.trans (hanswer (emit st d s) ⟨rfl, rfl, rfl, rfl, rfl⟩)
  exact ⟨⟨rfl, rfl, rfl, rfl, rfl⟩, _, rfl, rfl⟩

/-- Writing a byte twice is writing it once. -/
theorem writeByte_writeByte_self (A : Lanes) (a : Fin Config.stateBytes) (v : Byte) :
    writeByte (writeByte A a v) a v = writeByte A a v :=
  lanes_ext_bytes fun b => by by_cases hb : b = a <;> simp [readByte_writeByte, hb]

/-- WRS given twice leaves what WRS once leaves. -/
theorem execWrs_twice {addr : BitVec 8} {v : Byte} (h : execWrs addr v s = .next t) (h' : execWrs addr v t = .next u) :
    SameRegisters t u := by
  have hp : t.phase = s.phase := (execWrs_keepsControl h).phase
  refine (execWrs_keepsControl h').sameRegisters ?_
  obtain ⟨a, hrun⟩ | ⟨st, hrefuse⟩ := atAddress_cases addr s.phase
  · obtain rfl := complete_next.mp ((hrun s _ rfl).symm.trans h)
    obtain rfl := complete_next.mp ((hrun _ _ hp).symm.trans h')
    exact writeByte_writeByte_self s.lanes a v
  · obtain rfl := refuse_next.mp ((hrefuse t _ hp).symm.trans h')
    rfl

/-! ### SQUEEZE while output is left -/

theorem outputDone_eq_false_iff_outlen_ne : outputDone s = false ↔ s.mode.outlen ≠ some s.outcnt := by
  rw [outputDone_eq_false_iff]
  exact ⟨fun h e => h _ e rfl, fun h n hn e => h (hn.trans (congrArg some e.symm))⟩

/-- SQUEEZE with output left gives the byte at POS in the block it opened. -/
theorem execSqueeze_of_output_left (hp : s.phase = .squeeze) (hleft : s.mode.outlen ≠ some s.outcnt) :
    execSqueeze s = giveByte (openBlock s) := by
  simp [execSqueeze, inPhase_of_eq hp, outputDone_eq_false_iff_outlen_ne.mpr hleft]

theorem openBlock_pos (s : State) : (openBlock s).pos = if s.pos = s.mode.rate then 0 else s.pos := by
  unfold openBlock
  split <;> rfl

/-- A SQUEEZE that runs leaves POS one behind the byte it gave (R133). -/
theorem execSqueeze_pos (hp : s.phase = .squeeze) (hleft : s.mode.outlen ≠ some s.outcnt) (h : execSqueeze s = .next t) :
    t.pos = (openBlock s).pos + 1 := by
  have hd : outputDone s = false := outputDone_eq_false_iff_outlen_ne.mpr hleft
  obtain ⟨-, -, a, -, rfl⟩ | ⟨-, hdone, -⟩ | ⟨hphase, -⟩ := execSqueeze_next h
  · simp
  · simp [hd] at hdone
  · exact absurd hp hphase

/-- Settles O54: the second read answers from the same registers, the second write finds its byte written, and SQUEEZE
counts on from the block it opened. -/
theorem readsAndWritesRepeat : Obligations.ReadsAndWritesRepeat := by
  refine ⟨fun s t u addr i hi h h' => exec_read_twice hi h h', fun s t u addr v h h' => execWrs_twice h h',
    fun s t hp hleft h => ?_⟩
  rw [execSqueeze_pos hp hleft h, openBlock_pos]
  split <;> rfl

/-! ### POS outside the byte array -/

/-- Settles O39: no block is as long as 200 bytes, so SQUEEZE too uses POS as it stands. -/
theorem posOutsideArrayFaults : Obligations.PosOutsideArrayFaults := by
  intro s h
  have hopen : openBlock s = s := closeBlock_of_ne fun e => by
    have := s.mode.rate_bounds
    rw [e] at h
    omega
  refine ⟨fun v hp => (inPhase_of_eq hp).trans (atPos_of_ge h), fun hp => (inPhase_of_eq hp).trans (atPos_of_ge h),
    fun hp hleft => ?_⟩
  calc exec .squeeze s
    _ = giveByte (openBlock s) := execSqueeze_of_output_left hp hleft
    _ = giveByte s := by rw [hopen]
    _ = .fault .noSuchStateByte := atPos_of_ge h

end Sys2Proof.Machine
end

section
/-! The decoder is exact (30_encoding.md R72 to R74): a row matches a word exactly when the opcode is the row's and no reserved
bit is set, every other word is illegal with the reason that fits, and a command's word is the encoding of what it decodes to. -/

namespace Sys2Proof

open Machine (reservedBits)

/-! ### Rows, opcodes and reserved bits -/

/-- Bits 23:0, the part of a word behind the opcode (R70). -/
def operandBits : CommandWord := 0x00FFFFFF

/-- Opcode and operand bits make up the word. -/
theorem eq_of_opField_eq {w v : CommandWord} (hop : opField w = opField v)
    (hlow : w &&& operandBits = v &&& operandBits) : w = v := by
  apply BitVec.eq_of_getLsbD_eq
  intro j hj
  by_cases h : j < 24
  · have hbit : operandBits.getLsbD j = true := by revert j; decide
    simpa [hbit] using congrArg (·.getLsbD j) hlow
  · have h8 : j - 24 < 8 := by omega
    have e : 24 + (j - 24) = j := by omega
    simpa [opField, h8, e] using congrArg (·.getLsbD (j - 24)) hop

/-- The reserved bits of a row's opcode are the operand bits that its mask fixes (R74). -/
theorem reservedBits_of_row : ∀ r ∈ opcodeTable, reservedBits (opField r.pattern) = some (r.mask &&& operandBits) := by
  decide

/-- No row fixes an operand bit to 1. -/
theorem pattern_operandBits : ∀ r ∈ opcodeTable, r.pattern &&& operandBits = 0 := by
  decide

/-- The opcodes with reserved bits, those of the table of R161, are the opcodes of the rows. -/
theorem exists_row_of_reservedBits {op : BitVec 8} (h : reservedBits op ≠ none) :
    ∃ r ∈ opcodeTable, opField r.pattern = op := by
  revert op
  decide

/-- A row matches a word exactly when the word has its opcode and no reserved bit set (R73). -/
theorem matches_iff {r : OpcodeRow} (hr : r ∈ opcodeTable) {w : CommandWord} :
    w &&& r.mask = r.pattern ↔ opField w = opField r.pattern ∧ w &&& (r.mask &&& operandBits) = 0 := by
  have hlow : w &&& (r.mask &&& operandBits) = (w &&& r.mask) &&& operandBits := (BitVec.and_assoc ..).symm
  constructor
  · intro h
    exact ⟨opField_of_matches hr h, by rw [hlow, h, pattern_operandBits r hr]⟩
  · rintro ⟨hop, hres⟩
    refine eq_of_opField_eq ?_ (by rw [← hlow, hres, pattern_operandBits r hr])
    have hm := opField_mask hr
    simp only [opField] at hm hop ⊢
    rw [BitVec.extractLsb'_and, hm, BitVec.and_allOnes, hop]

/-- The same with the reserved bits as R74 lists them. -/
theorem matches_iff_of_reservedBits {r : OpcodeRow} (hr : r ∈ opcodeTable) {w m : CommandWord}
    (hm : reservedBits (opField w) = some m) :
    w &&& r.mask = r.pattern ↔ opField w = opField r.pattern ∧ w &&& m = 0 := by
  rw [matches_iff hr]
  refine and_congr_right fun hop => ?_
  rw [hop, reservedBits_of_row r hr, Option.some.injEq] at hm
  rw [hm]

/-! ### Illegal words -/

/-- The opcodes known to the decoder are those with reserved bits listed. -/
theorem knownOpcode_iff {w : CommandWord} : knownOpcode w = true ↔ reservedBits (opField w) ≠ none := by
  simp only [knownOpcode, List.any_eq_true, beq_iff_eq]
  constructor
  · rintro ⟨r, hr, hop⟩
    simp [← hop, reservedBits_of_row r hr]
  · exact exists_row_of_reservedBits

/-- A word that no row matches is illegal. -/
theorem decode_of_no_row {w : CommandWord} (h : ∀ r ∈ opcodeTable, w &&& r.mask ≠ r.pattern) :
    decode w = .error (if knownOpcode w then .reservedBits else .unknownOpcode) := by
  have hnone : opcodeTable.find? (fun r => r.matches w) = none :=
    List.find?_eq_none.mpr fun r hr => by simpa [OpcodeRow.matches] using h r hr
  simp [decode, hnone]

/-- A word with an unassigned opcode is rejected as such. -/
theorem decode_of_unassigned {w : CommandWord} (h : reservedBits (opField w) = none) :
    decode w = .error .unknownOpcode := by
  have hunknown : knownOpcode w = false := by
    rw [← Bool.not_eq_true, knownOpcode_iff]
    exact not_not.mpr h
  rw [decode_of_no_row, hunknown]
  · rfl
  · intro r hr hw
    rw [opField_of_matches hr hw, reservedBits_of_row r hr] at h
    cases h

/-- A word with a known opcode and a reserved bit set is rejected as such. -/
theorem decode_of_reserved {w m : CommandWord} (hm : reservedBits (opField w) = some m) (hw : w &&& m ≠ 0) :
    decode w = .error .reservedBits := by
  have hknown : knownOpcode w = true := knownOpcode_iff.mpr (by simp [hm])
  rw [decode_of_no_row, hknown]
  · rfl
  · intro r hr hmatch
    exact hw ((matches_iff_of_reservedBits hr hm).mp hmatch).2

/-! ### Legal words -/

theorem encodeI_idxField (op : BitVec 8) (w : CommandWord) :
    encodeI op (idxField w) = (op ++ 0#24) ||| (w &&& 0x0000001F) := by
  apply BitVec.eq_of_getLsbD_eq
  intro j hj
  rw [encodeI, idxField, BitVec.getLsbD_append, BitVec.getLsbD_append, BitVec.getLsbD_or, BitVec.getLsbD_append]
  interval_cases j <;> simp

theorem encode_init_fields (w : CommandWord) :
    encode (.init (modeField w) (capField w)) = 0x01000000 ||| (w &&& 0x0007FFFF) := by
  apply BitVec.eq_of_getLsbD_eq
  intro j hj
  rw [getLsbD_encode_init]
  interval_cases j <;> simp [modeField, capField]

theorem encode_absorb_field (w : CommandWord) :
    encode (.absorb (imm8Field w)) = 0x02000000 ||| (w &&& 0x000000FF) := by
  apply BitVec.eq_of_getLsbD_eq
  intro j hj
  rw [getLsbD_encode_absorb]
  interval_cases j <;> simp [imm8Field]

theorem encode_wrs_fields (w : CommandWord) :
    encode (.wrs (addrField w) (imm8Field w)) = 0x18000000 ||| (w &&& 0x0000FFFF) := by
  apply BitVec.eq_of_getLsbD_eq
  intro j hj
  rw [getLsbD_encode_wrs]
  interval_cases j <;> simp [addrField, imm8Field]

theorem encode_rds_field (w : CommandWord) :
    encode (.rds (addrField w)) = 0x19000000 ||| (w &&& 0x0000FF00) := by
  apply BitVec.eq_of_getLsbD_eq
  intro j hj
  rw [getLsbD_encode_rds]
  interval_cases j <;> simp [addrField]

/-- A row of format N takes no bit from the word. -/
theorem encodeN_eq (op : BitVec 8) (w : CommandWord) : encodeN op = (op ++ 0#24) ||| (w &&& 0) := by
  simp [encodeN]

/-- The word of the command that a row assembles: the row's pattern and the word's own operand bits. -/
theorem encode_assemble (w : CommandWord) :
    ∀ r ∈ opcodeTable, encode (r.assemble w) = r.pattern ||| (w &&& ~~~r.mask) := by
  simp only [opcodeTable, List.forall_mem_cons]
  exact ⟨encode_init_fields w, encode_absorb_field w, encodeN_eq 0x03 w, encodeN_eq 0x04 w, encodeN_eq 0x05 w,
    encodeN_eq 0x06 w, encodeN_eq 0x10 w, encodeI_idxField 0x11 w, encodeN_eq 0x12 w, encodeN_eq 0x13 w,
    encodeN_eq 0x14 w, encodeN_eq 0x15 w, encodeI_idxField 0x16 w, encode_wrs_fields w, encode_rds_field w, nofun⟩

/-- A word that matches a row is the encoding of the command the row assembles from it. -/
theorem encode_assemble_of_matches {r : OpcodeRow} (hr : r ∈ opcodeTable) {w : CommandWord}
    (h : w &&& r.mask = r.pattern) : encode (r.assemble w) = w := by
  rw [encode_assemble w r hr, ← h]
  apply BitVec.eq_of_getElem_eq
  intro j hj
  simp [← Bool.and_or_distrib_left]

/-- Encoding a decoded command gives the word back. -/
theorem encode_of_decode {w : CommandWord} {i : Instr} (h : decode w = .ok i) : encode i = w := by
  obtain ⟨r, hr, hmatch, rfl⟩ := decode_eq_ok_iff.mp h
  exact encode_assemble_of_matches hr hmatch

/-- A word with a known opcode and no reserved bit set decodes, to the command it encodes. -/
theorem decode_of_legal {w m : CommandWord} (hm : reservedBits (opField w) = some m) (hw : w &&& m = 0) :
    ∃ i, decode w = .ok i ∧ encode i = w := by
  obtain ⟨r, hr, hop⟩ := exists_row_of_reservedBits (op := opField w) (by simp [hm])
  have hmatch := (matches_iff_of_reservedBits hr hm).mpr ⟨hop.symm, hw⟩
  exact ⟨r.assemble w, decode_eq_ok_iff.mpr ⟨r, hr, hmatch, rfl⟩, encode_assemble_of_matches hr hmatch⟩

/-- Different rows match different words (R72). -/
theorem rows_exclusive :
    opcodeTable.Pairwise fun r q => ∀ w : CommandWord, ¬ (w &&& r.mask = r.pattern ∧ w &&& q.mask = q.pattern) := by
  have hdistinct : opcodeTable.Pairwise fun r q => opField r.pattern ≠ opField q.pattern :=
    List.pairwise_map.mp opcodes_nodup
  refine hdistinct.imp_of_mem fun hr hq hne w ⟨hwr, hwq⟩ => hne ?_
  rw [row_unique hr hq hwr hwq]

/-! ### The statements -/

/-- Settles O2: the word of a command matches the row with its mnemonic, and that row reads the operands back. -/
theorem decodeOfEncode : Obligations.DecodeOfEncode := decode_encode

/-- Settles O3: the opcode and the reserved bits decide whether a row matches. -/
theorem decoderIsExact : Obligations.DecoderIsExact :=
  ⟨rows_exclusive, fun _ => ⟨decode_of_unassigned, fun _ => decode_of_reserved, fun _ => decode_of_legal⟩⟩

/-- Settles O1: the fifteen words, each by evaluating the decoder. -/
theorem listedWordsDecode : Obligations.ListedWordsDecode :=
  ⟨rfl, rfl, rfl, rfl, rfl, rfl, rfl, rfl, rfl, rfl, rfl, rfl, rfl, rfl, rfl⟩

end Sys2Proof
end

section
/-! What a step answers (30_encoding.md R74, R77, R78): one response word per command word, its two fields, and the status and
data of every command's answer. -/

namespace Sys2Proof.Machine

variable {s t : State}

/-! ### The step -/

/-- Without an event the block waits (R181). -/
theorem step_of_no_event (h : s.hostInput = []) : step s = .next s := by
  simp [step, takeEvent, h]

/-- Settles O4: a step adds nothing around exec. -/
theorem stepRunsDecodedCommand : Obligations.StepRunsDecodedCommand := fun _ _ _ _ => step_command

/-- Settles O5: the decoder rejects such a word, and the step refuses what the decoder rejects. -/
theorem illegalWordIsRefused : Obligations.IllegalWordIsRefused := by
  refine ⟨fun s w rest hin hw => ?_, rfl, rfl⟩
  obtain hnone | ⟨m, hm, hbits⟩ := hw
  · exact step_illegal hin (decode_of_unassigned hnone)
  · exact step_illegal hin (decode_of_reserved hm hbits)

/-! ### The fields of a response word -/

/-- The status in bits 11:8, the data in bits 7:0 (R78). -/
theorem responseWord_eq (st : Status) (d : Byte) :
    responseWord st d = (st.code.zeroExtend 16 <<< 8 ||| d.zeroExtend 16) := by
  apply BitVec.eq_of_getLsbD_eq
  intro j hj
  rw [responseWord, BitVec.getLsbD_append, BitVec.getLsbD_append]
  interval_cases j <;> simp

@[simp] theorem statusField_responseWord (st : Status) (d : Byte) : statusField (responseWord st d) = st.code := by
  apply BitVec.eq_of_getLsbD_eq
  intro j hj
  rw [statusField, responseWord, BitVec.getLsbD_extractLsb', BitVec.getLsbD_append, BitVec.getLsbD_append]
  interval_cases j <;> simp

@[simp] theorem dataField_responseWord (st : Status) (d : Byte) : dataField (responseWord st d) = d :=
  BitVec.extractLsb'_append_eq_right

/-- Bits 15:12 of a response word are zero (R78). -/
theorem responseWord_high (st : Status) (d : Byte) : (responseWord st d).extractLsb' 12 4 = 0 := by
  apply BitVec.eq_of_getLsbD_eq
  intro j hj
  rw [responseWord, BitVec.getLsbD_extractLsb', BitVec.getLsbD_append, BitVec.getLsbD_append]
  interval_cases j <;> simp

/-! ### What a command answers -/

/-- The status of a refused command: neither OK nor IOError, which the block never gives (R160). -/
abbrev Status.Refuses (st : Status) : Prop := st ≠ .ok ∧ st ≠ .ioError

/-- The data byte with which a command completes: 0 but for SQUEEZE, STAT and RDS (R78). -/
def CompletesWith (i : Instr) (d : Byte) : Prop :=
  i ≠ .squeeze → i ≠ .stat → (∀ addr, i ≠ .rds addr) → d = 0

/-- From `s` to `t` the command `i` gives its one response: it is refused, or it completes and answers its data byte. -/
inductive Answers (i : Instr) (s : State) : State → Prop
  | refused {st : Status} (h : st.Refuses) : Answers i s (raise st s)
  | completed {d : Byte} {u : State} (hd : CompletesWith i d) (hin : u.hostInput = s.hostInput)
      (hr : u.responses = s.responses) : Answers i s (respond d u)

/-- A command may complete with the data byte 0. -/
theorem completesWith_zero (i : Instr) : CompletesWith i 0 := fun _ _ _ => rfl

variable {i : Instr}

theorem mapLanes_answers {f : Lanes → Lanes} (h : mapLanes f s = .next t) : Answers i s t := by
  obtain ⟨-, rfl⟩ | ⟨-, rfl⟩ := mapLanes_next h
  · exact .completed (completesWith_zero i) rfl rfl
  · exact .refused (by decide)

theorem mapLanesAt_answers {f : Lanes → Fin Config.roundCount → Lanes} {idx : BitVec 5}
    (h : mapLanesAt f idx s = .next t) : Answers i s t := by
  obtain ⟨-, j, -, rfl⟩ | ⟨-, -, rfl⟩ | ⟨-, rfl⟩ := mapLanesAt_next h
  · exact .completed (completesWith_zero i) rfl rfl
  · exact .refused (by decide)
  · exact .refused (by decide)

/-- A raw access is refused, or answers as the access does. -/
theorem atAddress_answers {addr : BitVec 8} {f : Fin Config.stateBytes → Result} (h : atAddress addr s f = .next t)
    (hf : ∀ a, f a = .next t → Answers i s t) : Answers i s t := by
  obtain ⟨-, a, -, h⟩ | ⟨-, -, rfl⟩ | ⟨-, rfl⟩ := atAddress_next h
  · exact hf a h
  · exact .refused (by decide)
  · exact .refused (by decide)

theorem execInit_answers {mode : BitVec 3} {cap : BitVec 16} (h : execInit mode cap s = .next t) : Answers i s t := by
  obtain ⟨-, rfl⟩ | ⟨m, -, -, rfl⟩ | ⟨m, -, -, rfl⟩ := execInit_next h
  · exact .refused (by decide)
  · exact .refused (by decide)
  · exact .completed (completesWith_zero i) rfl rfl

theorem execAbsorb_answers {v : Byte} (h : execAbsorb v s = .next t) : Answers i s t := by
  obtain ⟨-, a, -, rfl⟩ | ⟨-, rfl⟩ := execAbsorb_next h
  · exact .completed (completesWith_zero i) (by simp) (by simp)
  · exact .refused (by decide)

theorem execFinal_answers (h : execFinal s = .next t) : Answers i s t := by
  obtain ⟨-, a, -, rfl⟩ | ⟨-, rfl⟩ := execFinal_next h
  · exact .completed (completesWith_zero i) rfl rfl
  · exact .refused (by decide)

theorem execSqueeze_answers (h : execSqueeze s = .next t) : Answers .squeeze s t := by
  obtain ⟨-, -, a, -, rfl⟩ | ⟨-, -, rfl⟩ | ⟨-, rfl⟩ := execSqueeze_next h
  · exact .completed (absurd rfl) (by simp) (by simp)
  · exact .refused (by decide)
  · exact .refused (by decide)

/-- Every command gives one response, with a data byte other than 0 only where it completes a SQUEEZE, STAT or RDS. -/
theorem exec_answers (h : exec i s = .next t) : Answers i s t := by
  cases i with
  | init mode cap => exact execInit_answers h
  | absorb v => exact execAbsorb_answers h
  | final => exact execFinal_answers h
  | squeeze => exact execSqueeze_answers h
  | stat =>
    obtain rfl := execStat_next h
    exact .completed (fun _ hne => absurd rfl hne) rfl rfl
  | clear =>
    obtain rfl := execClear_next h
    exact .completed (completesWith_zero _) rfl rfl
  | permute => exact mapLanes_answers h
  | round idx => exact mapLanesAt_answers h
  | theta => exact mapLanes_answers h
  | rho => exact mapLanes_answers h
  | pi => exact mapLanes_answers h
  | chi => exact mapLanes_answers h
  | iota idx => exact mapLanesAt_answers h
  | wrs addr v =>
    refine atAddress_answers h fun a h => ?_
    obtain rfl := complete_next.mp h
    exact .completed (completesWith_zero _) rfl rfl
  | rds addr =>
    refine atAddress_answers h fun a h => ?_
    obtain rfl := complete_next.mp h
    exact .completed (fun _ _ hne => absurd rfl (hne addr)) rfl rfl

/-! ### The statements about responses -/

/-- A refusing status with zero data is a word the block can give (R78, R160). -/
theorem legalResponse_of_refuses {st : Status} (h : st.Refuses) : LegalResponse (responseWord st 0) := by
  refine ⟨responseWord_high st 0, ?_, fun _ => dataField_responseWord st 0⟩
  revert h
  cases st <;> decide

theorem legalResponse_ok (d : Byte) : LegalResponse (responseWord .ok d) := by
  refine ⟨responseWord_high .ok d, ?_, fun h => absurd (statusField_responseWord .ok d) h⟩
  rw [statusField_responseWord]
  decide

/-- The one response of a command is a legal one, and the host's events stand. -/
theorem Answers.legalResponse (h : Answers i s t) :
    t.hostInput = s.hostInput ∧ ∃ r, t.responses = s.responses ++ [r] ∧ LegalResponse r := by
  cases h with
  | refused hst => exact ⟨rfl, _, rfl, legalResponse_of_refuses hst⟩
  | completed _ hin hr => exact ⟨hin, _, congrArg (· ++ _) hr, legalResponse_ok _⟩

/-- Settles O9: a step that takes a command is exec or a refusal, and each answers once. -/
theorem oneResponsePerCommand : Obligations.OneResponsePerCommand := by
  refine ⟨fun s t w rest hin hstep => ?_, fun s t hin hstep => ?_⟩
  · cases hd : decode w with
    | ok i =>
      rw [step_command hin hd] at hstep
      exact (exec_answers hstep).legalResponse
    | error e =>
      rw [step_illegal hin hd] at hstep
      obtain rfl := refuse_next.mp hstep
      exact ⟨rfl, _, rfl, legalResponse_of_refuses (by decide)⟩
  · obtain hnil | ⟨rest, hreset⟩ := hin
    · obtain ⟨⟩ := (step_of_no_event hnil).symm.trans hstep
      rfl
    · obtain ⟨⟩ := (step_reset hreset).symm.trans hstep
      rfl

/-- A refused command's word is one of five. -/
theorem responseWord_of_refuses {st : Status} (h : st.Refuses) :
    statusField (responseWord st 0) ≠ 0 ∧ responseWord st 0 ∈ [0x0100, 0x0300, 0x0400, 0x0500, 0x0600] := by
  revert h
  cases st <;> decide

/-- The response word by the command: nonzero status for a refusal, and its data byte otherwise. -/
theorem Answers.responseWord_cases (h : Answers i s t) {r : ResponseWord} (hr : t.responses = s.responses ++ [r]) :
    (∃ st : Status, st.Refuses ∧ r = responseWord st 0) ∨ ∃ d, CompletesWith i d ∧ r = responseWord .ok d := by
  cases h with
  | refused hst => exact .inl ⟨_, hst, by simpa [eq_comm] using hr⟩
  | completed hd _ hu => exact .inr ⟨_, hd, by simpa [hu, eq_comm] using hr⟩

/-- Settles O10: the codes and fields by the lemmas above, the answers by what a command can answer. -/
theorem responseWordLayout : Obligations.ResponseWordLayout := by
  refine ⟨⟨rfl, rfl, rfl, rfl, rfl, rfl, rfl⟩, fun st d =>
    ⟨responseWord_eq st d, statusField_responseWord st d, dataField_responseWord st d⟩, fun i s t r h hr => ?_⟩
  obtain ⟨st, hst, rfl⟩ | ⟨d, hd, rfl⟩ := (exec_answers h).responseWord_cases hr
  · obtain ⟨hstatus, hword⟩ := responseWord_of_refuses hst
    exact ⟨fun _ => hword, fun hok => absurd hok hstatus⟩
  · refine ⟨fun hne => absurd (statusField_responseWord .ok d) hne, fun _ hsqueeze hstat hrds => ?_⟩
    rw [hd hsqueeze hstat hrds]
    rfl

end Sys2Proof.Machine
end

section
/-! The sponge's block functions byte by byte (41_sponge.md R121 to R124): the bytes after XORing a block in, the padded block
as FINAL's two XORs, and absorbing in whole blocks as a fold over single bytes. -/

namespace Sys2Proof.Machine

/-! ### Bytes XORed in -/

/-- A byte XORed in at `a`, as the change of the byte at `b`. -/
theorem readByte_xorByte_eq_xor (A : Lanes) (a b : Fin Config.stateBytes) (v : Byte) :
    readByte (xorByte A a v) b = readByte A b ^^^ (if b.val = a.val then v else 0) := by
  rw [readByte_xorByte]
  by_cases hb : b = a
  · simp [hb]
  · simp [hb, Fin.val_ne_of_ne hb]

theorem readByte_xorAt (A : Lanes) (p : Nat) (v : Byte) (b : Fin Config.stateBytes) :
    readByte (xorAt A p v) b = readByte A b ^^^ (if b.val = p then v else 0) := by
  unfold xorAt
  split
  · exact readByte_xorByte_eq_xor ..
  · rw [if_neg (by omega)]
    simp

/-- From address `p` on the byte at `b` gets the block's byte number `b - p`, where it has one. -/
theorem readByte_xorBytes (A : Lanes) (p : Nat) (B : List Byte) (b : Fin Config.stateBytes) :
    readByte (xorBytes A p B) b = readByte A b ^^^ (if p ≤ b.val then B[b.val - p]?.getD 0 else 0) := by
  induction B generalizing A p with
  | nil => simp [xorBytes]
  | cons v B ih =>
    rw [xorBytes, ih, readByte_xorAt]
    obtain hlt | heq | hgt := lt_trichotomy b.val p
    · simp [show b.val ≠ p by omega, show ¬ p ≤ b.val by omega, show ¬ p + 1 ≤ b.val by omega]
    · simp [heq]
    · have hsub : b.val - p = b.val - (p + 1) + 1 := by omega
      simp [show b.val ≠ p by omega, hgt.le, show p + 1 ≤ b.val by omega, hsub]

/-! ### The padded block -/

/-- The tail, the domain byte and the zero fill: the tail with the domain byte XORed in behind it. -/
theorem getElem?_domain_byte (T : List Byte) (d : Byte) (n b : Nat) :
    (T ++ d :: List.replicate n 0)[b]?.getD 0 = T[b]?.getD 0 ^^^ (if b = T.length then d else 0) := by
  obtain hlt | rfl | hgt := lt_trichotomy b T.length
  · simp [List.getElem?_append_left hlt, hlt.ne]
  · simp
  · obtain ⟨j, hj⟩ : ∃ j, b - T.length = j + 1 := Nat.exists_eq_succ_of_ne_zero (by omega)
    rw [List.getElem?_append_right hgt.le, hj, List.getElem?_cons_succ, List.getElem?_replicate,
      List.getElem?_eq_none hgt.le, if_neg hgt.ne']
    split <;> rfl

/-- A byte of a list with one byte replaced. -/
theorem getElem?_modify_byte {l : List Byte} {k : Nat} (hk : k < l.length) (f : Byte → Byte) (b : Nat) :
    (l.modify k f)[b]?.getD 0 = if b = k then f (l[b]?.getD 0) else l[b]?.getD 0 := by
  by_cases hb : b = k
  · subst hb
    simp [hk]
  · simp [hb, Ne.symm hb]

theorem or_eq_xor_dsuf (m : Mode) : m.dsuf ||| 0x80 = m.dsuf ^^^ 0x80 := by
  cases m <;> rfl

/-- The padded block (R122) as FINAL makes it: the domain byte XORed in behind the tail, then 0x80 in the last byte. -/
theorem getElem?_pad {rate : Nat} {T : List Byte} {d : Byte} (hT : T.length < rate) (hd : d ||| 0x80 = d ^^^ 0x80)
    (b : Nat) :
    (pad rate T d)[b]?.getD 0 =
      T[b]?.getD 0 ^^^ (if b = T.length then d else 0) ^^^ (if b = rate - 1 then 0x80 else 0) := by
  have hlen : rate - 1 < (T ++ d :: List.replicate (rate - 1 - T.length) 0).length := by simp; omega
  rw [pad, getElem?_modify_byte hlen, getElem?_domain_byte]
  split
  · rw [List.getElem?_eq_none (by omega)]
    split
    · simpa using hd
    · rfl
  · simp

/-- Absorbing the padded block permutes the lanes that FINAL's two XORs leave (R132). -/
theorem absorbBlock_pad (m : Mode) (A : Lanes) {T : List Byte} (hT : T.length < m.rate.toNat) {a : Fin Config.stateBytes}
    (ha : a.val = T.length) :
    absorbBlock A (pad m.rate.toNat T m.dsuf) = Keccak.keccakF (padLanes m a (xorBytes A 0 T)) := by
  refine congrArg Keccak.keccakF (lanes_ext_bytes fun b => ?_)
  have hlast : m.lastAddress.val = m.rate.toNat - 1 := rfl
  simp only [padLanes, readByte_xorByte_eq_xor, readByte_xorBytes, hlast, ha, Nat.zero_le, if_true, Nat.sub_zero,
    getElem?_pad hT (or_eq_xor_dsuf m), BitVec.xor_assoc]

/-! ### Absorbing byte by byte -/

/-- One byte absorbed at position `x.2` of the current block, which is permuted when the byte completes it (R131). -/
def absorbStep (rate : Nat) (x : Lanes × Nat) (v : Byte) : Lanes × Nat :=
  if x.2 + 1 = rate then (Keccak.keccakF (xorAt x.1 x.2 v), 0) else (xorAt x.1 x.2 v, x.2 + 1)

variable {rate p : Nat}

/-- Bytes that complete no block are XORed in. -/
theorem foldl_absorbStep_of_lt (A : Lanes) {T : List Byte} (h : p + T.length < rate) :
    T.foldl (absorbStep rate) (A, p) = (xorBytes A p T, p + T.length) := by
  induction T generalizing A p with
  | nil => rfl
  | cons v T ih =>
    rw [List.length_cons] at h ⊢
    rw [List.foldl_cons, absorbStep, if_neg (by omega), ih _ (by omega), xorBytes, Nat.add_right_comm, Nat.add_assoc]

/-- Bytes that complete the block are XORed in and permuted. -/
theorem foldl_absorbStep_of_eq (A : Lanes) {T : List Byte} (hp : p < rate) (h : p + T.length = rate) :
    T.foldl (absorbStep rate) (A, p) = (Keccak.keccakF (xorBytes A p T), 0) := by
  induction T generalizing A p with
  | nil => simp at h; omega
  | cons v T ih =>
    rw [List.length_cons] at h
    rw [List.foldl_cons, absorbStep, xorBytes]
    split
    · obtain rfl : T = [] := List.eq_nil_of_length_eq_zero (by omega)
      rfl
    · exact ih _ (by omega) (by omega)

/-- Whole blocks are absorbed one after the other (R123). -/
theorem foldl_absorbStep_whole_blocks (hrate : 0 < rate) (q : Nat) (A : Lanes) {M : List Byte} (h : q * rate ≤ M.length) :
    M.foldl (absorbStep rate) (A, 0) =
      (M.drop (q * rate)).foldl (absorbStep rate) (absorbWholeBlocks rate q A M, 0) := by
  induction q generalizing A M with
  | zero => simp [absorbWholeBlocks]
  | succ q ih =>
    rw [Nat.succ_mul] at h ⊢
    have hblock : (M.take rate).foldl (absorbStep rate) (A, 0) = (absorbBlock A (M.take rate), 0) :=
      foldl_absorbStep_of_eq A hrate (by rw [List.length_take]; omega)
    calc M.foldl (absorbStep rate) (A, 0)
      _ = (M.take rate ++ M.drop rate).foldl (absorbStep rate) (A, 0) := by rw [List.take_append_drop]
      _ = (M.drop rate).foldl (absorbStep rate) (absorbBlock A (M.take rate), 0) := by rw [List.foldl_append, hblock]
      _ = ((M.drop rate).drop (q * rate)).foldl (absorbStep rate) (absorbWholeBlocks rate (q + 1) A M, 0) :=
        ih _ (by rw [List.length_drop]; omega)
      _ = _ := by rw [List.drop_drop, Nat.add_comm rate]

/-- absorb_all (R123) is absorbing the message byte by byte, then FINAL's padding at the position reached. -/
theorem absorbAll_eq_foldl (m : Mode) (M : List Byte) {a : Fin Config.stateBytes} (ha : a.val = M.length % m.rate.toNat) :
    absorbAll m M =
      Keccak.keccakF (padLanes m a (M.foldl (absorbStep m.rate.toNat) (zeroLanes, 0)).1) := by
  have hrate : 0 < m.rate.toNat := by have := m.rate_bounds; omega
  have htail : (M.drop (M.length / m.rate.toNat * m.rate.toNat)).length = M.length % m.rate.toNat := by
    rw [List.length_drop, Nat.mod_eq_sub_div_mul]
  have hlt := htail ▸ Nat.mod_lt M.length hrate
  rw [absorbAll, absorbBlock_pad m _ hlt (ha.trans htail.symm),
    foldl_absorbStep_whole_blocks hrate _ _ (Nat.div_mul_le_self ..), foldl_absorbStep_of_lt _ (by omega)]

end Sys2Proof.Machine
end

section
/-! The commands compute the hash (30_encoding.md R80, 41_sponge.md R128): what ABSORB, FINAL and SQUEEZE do to the lanes and
answer, runs of them by induction on their length, and the digest functions as sequences. -/

namespace Sys2Proof.Machine

variable {s t f : State} {m : Mode} {p n : Nat}

/-! ### One command -/

theorem xorAt_of_address (A : Lanes) {a : Fin Config.stateBytes} (ha : a.val = p) (v : Byte) :
    xorAt A p v = xorByte A a v := by
  subst ha
  simp [xorAt]

theorem byteAt_of_address (A : Lanes) {a : Fin Config.stateBytes} (ha : a.val = p) : byteAt A p = readByte A a := by
  subst ha
  simp [byteAt]

/-- ABSORB at POS is one step of absorbing byte by byte. -/
theorem exec_absorb_data {v : Byte} (h : s.Control m .absorb p n) (hp : p < m.rate.toNat)
    (hexec : exec (.absorb v) s = .next t) :
    absorbStep m.rate.toNat (s.lanes, p) v = (t.lanes, (p + 1) % m.rate.toNat) ∧ t.responses = s.responses ++ [0] := by
  obtain ⟨rfl, hphase, rfl, -⟩ := h
  obtain ⟨-, a, ha, rfl⟩ | ⟨hne, -⟩ := execAbsorb_next hexec
  · refine ⟨?_, by simp [responseWord, Status.code]⟩
    have hend : s.pos.toNat + 1 = s.mode.rate.toNat ↔ s.pos + 1 = s.mode.rate := by
      rw [← pos_succ_toNat hp, BitVec.toNat_inj]
    rw [absorbStep, xorAt_of_address s.lanes ha]
    by_cases hc : s.pos + 1 = s.mode.rate
    · have hclose : closeBlock (absorbByte a v s) = permuteBlock (absorbByte a v s) := closeBlock_of_eq hc
      simp [hclose, hend.mpr hc]
    · have hclose : closeBlock (absorbByte a v s) = absorbByte a v s := closeBlock_of_ne hc
      have hne := mt hend.mp hc
      simp [hclose, hne, Nat.mod_eq_of_lt (show s.pos.toNat + 1 < s.mode.rate.toNat by omega)]
  · exact absurd hphase hne

/-- FINAL permutes the lanes padded at POS. -/
theorem exec_final_data (h : s.Control m .absorb p n) (hexec : exec .final s = .next t) :
    (∃ a : Fin Config.stateBytes, a.val = p ∧ t.lanes = Keccak.keccakF (padLanes m a s.lanes)) ∧
      t.responses = s.responses ++ [0] := by
  obtain ⟨rfl, hphase, rfl, -⟩ := h
  obtain ⟨-, a, ha, rfl⟩ | ⟨hne, -⟩ := execFinal_next hexec
  · exact ⟨⟨a, ha, rfl⟩, rfl⟩
  · exact absurd hphase hne

/-- SQUEEZE opens a block as the squeeze contract does (R124). -/
theorem openBlock_eq_contract (s : State) :
    (if s.pos.toNat = s.mode.rate.toNat then (Keccak.keccakF s.lanes, 0) else (s.lanes, s.pos.toNat)) =
      ((openBlock s).lanes, (openBlock s).pos.toNat) := by
  simp only [openBlock, ← BitVec.toNat_inj]
  split <;> rfl

/-- The byte SQUEEZE gives stands at POS modulo RATE. -/
theorem openBlock_pos_toNat (h : s.pos.toNat ≤ s.mode.rate.toNat) :
    (openBlock s).pos.toNat = s.pos.toNat % s.mode.rate.toNat := by
  rw [openBlock_pos]
  split
  · simp [*]
  · rename_i hc
    rw [Nat.mod_eq_of_lt (lt_of_le_of_ne h fun e => hc (BitVec.eq_of_toNat_eq e))]

/-- SQUEEZE gives the next byte of the squeeze contract, and leaves lanes and position for the bytes after it. -/
theorem exec_squeeze_data (h : s.Control m .squeeze p n) (hp : p ≤ m.rate.toNat)
    (hroom : ∀ l, m.outlen = some l → n < l.toNat) (hexec : exec .squeeze s = .next t) :
    ∃ b, t.responses = s.responses ++ [responseWord .ok b] ∧
      ∀ k, (squeezeFrom m.rate.toNat (k + 1) s.lanes p).1 =
        b :: (squeezeFrom m.rate.toNat k t.lanes (p % m.rate.toNat + 1)).1 := by
  obtain ⟨rfl, hphase, rfl, rfl⟩ := h
  have hdone : outputDone s = false := outputDone_eq_false_iff.mpr fun l hl e => (hroom l hl).ne (congrArg _ e)
  obtain ⟨-, -, a, ha, rfl⟩ | ⟨-, hd, -⟩ | ⟨hne, -⟩ := execSqueeze_next hexec
  · refine ⟨readByte (openBlock s).lanes a, by simp, fun k => ?_⟩
    simp only [squeezeFrom, openBlock_eq_contract, openBlock_pos_toNat hp,
      byteAt_of_address _ (ha.trans (openBlock_pos_toNat hp))]
    simp
  · simp [hdone] at hd
  · exact absurd hphase hne

/-! ### Runs -/

/-- A run goes on where a shorter one ended. -/
theorem run_add {a : Nat} (h : core.run a s = .next f) (b : Nat) : core.run (a + b) s = core.run b f := by
  induction a generalizing s with
  | zero =>
    obtain ⟨⟩ := h
    rw [Nat.zero_add]
  | succ a ih =>
    rw [Nat.add_right_comm]
    simp only [Host.Core.run] at h ⊢
    split at h
    · exact ih h
    · cases h
    · cases h

/-- ABSORB of a whole message absorbs its bytes one after the other and answers 0x0000 to each. -/
theorem run_absorbs_data (M : List Byte) {more : List HostEvent} (h : s.Control m .absorb p n) (hp : p < m.rate.toNat)
    (hin : s.hostInput = asEvents (absorbCommands M) ++ more) (hrun : core.run M.length s = .next f) :
    f.lanes = (M.foldl (absorbStep m.rate.toNat) (s.lanes, p)).1 ∧
      f.responses = s.responses ++ List.replicate M.length 0 := by
  induction M generalizing s p with
  | nil =>
    obtain ⟨⟩ := hrun
    simp
  | cons v M ih =>
    have h' := h.setHostInput (asEvents (absorbCommands M) ++ more)
    obtain ⟨t, hexec, ht⟩ := exec_absorb_control h' hp v
    obtain ⟨hstep, hresp⟩ := exec_absorb_data h' hp hexec
    obtain ⟨htin, hrest⟩ := run_succ_of_exec hin hexec
    obtain ⟨hlanes, hfresp⟩ := ih ht (Nat.mod_lt _ (by omega)) htin ((hrest _).symm.trans hrun)
    refine ⟨?_, ?_⟩
    · rw [hlanes, List.foldl_cons]
      exact congrArg (fun x => (M.foldl (absorbStep m.rate.toNat) x).1) hstep.symm
    · rw [hfresp, hresp, List.append_assoc]
      rfl

/-- `k` SQUEEZE within the digest answer the next `k` bytes of the squeeze contract. -/
theorem run_squeezes_data (k : Nat) {more : List HostEvent} (h : s.Control m .squeeze p n) (hp : p ≤ m.rate.toNat)
    (hroom : ∀ l, m.outlen = some l → n + k ≤ l.toNat) (hin : s.hostInput = asEvents (squeezeCommands k) ++ more)
    (hrun : core.run k s = .next t) :
    t.hostInput = more ∧
      t.responses = s.responses ++ (squeezeFrom m.rate.toNat k s.lanes p).1.map (responseWord .ok) := by
  induction k generalizing s p n with
  | zero =>
    obtain ⟨⟩ := hrun
    exact ⟨hin, by simp [squeezeFrom]⟩
  | succ k ih =>
    have h' := h.setHostInput (asEvents (squeezeCommands k) ++ more)
    have hnow : ∀ l, m.outlen = some l → n < l.toNat := fun l hl => by have := hroom l hl; omega
    obtain ⟨u, hexec, hu⟩ := exec_squeeze_control h' hp hnow
    obtain ⟨b, hresp, hbytes⟩ := exec_squeeze_data h' hp hnow hexec
    obtain ⟨huin, hrest⟩ := run_succ_of_exec hin hexec
    have hle : p % m.rate.toNat + 1 ≤ m.rate.toNat := Nat.mod_lt _ (by have := m.rate_bounds; omega)
    have hlater : ∀ l, m.outlen = some l → (n + if m.outlen = none then 0 else 1) + k ≤ l.toNat := fun l hl => by
      have := hroom l hl
      simp only [hl, reduceCtorEq, if_false]
      omega
    obtain ⟨htin, htresp⟩ := ih hu hle hlater huin ((hrest _).symm.trans hrun)
    refine ⟨htin, ?_⟩
    have hsplit := hbytes k
    rw [htresp, hresp, hsplit, List.append_assoc]
    rfl

/-! ### The sequences -/

theorem startInvocation_control (m : Mode) (s : State) : (respond 0 (startInvocation m s)).Control m .absorb 0 0 :=
  ⟨rfl, rfl, rfl, rfl⟩

/-- INIT with room for the digest, ABSORB of each byte, and FINAL: each completes, and the lanes are absorb_all(M) (R123). -/
theorem run_absorb_all {cap : BitVec 16} (M : List Byte) {more : List HostEvent} (hroom : capTooSmall m cap = false)
    (hin : s.hostInput = .command (encode (.init m.code cap)) ::
      (asEvents (absorbCommands M) ++ .command (encode .final) :: more)) :
    ∃ g, core.run (M.length + 2) s = .next g ∧ g.Control m .squeeze 0 0 ∧ g.hostInput = more ∧
      g.lanes = absorbAll m M ∧ g.responses = s.responses ++ List.replicate (M.length + 2) 0 := by
  have hrate : 0 < m.rate.toNat := by have := m.rate_bounds; omega
  have hinit := execInit_of_room hroom
    { s with hostInput := asEvents (absorbCommands M) ++ .command (encode .final) :: more }
  obtain ⟨huin, hrun1⟩ := run_succ_of_exec hin hinit
  obtain ⟨f, hf, hfc, hfin⟩ := run_absorbs_control M (startInvocation_control m _) hrate huin
  obtain ⟨hflanes, hfresp⟩ := run_absorbs_data M (startInvocation_control m _) hrate huin hf
  have hfc' := hfc.setHostInput more
  obtain ⟨g, hfinal, hgc⟩ := exec_final_control hfc' (Nat.mod_lt _ hrate)
  obtain ⟨⟨a, ha, hglanes⟩, hgresp⟩ := exec_final_data hfc' hfinal
  obtain ⟨hgin, hrun2⟩ := run_succ_of_exec hfin hfinal
  refine ⟨g, ?_, hgc, hgin, ?_, ?_⟩
  · calc core.run (M.length + 1 + 1) s
      _ = core.run (M.length + 1) _ := hrun1 _
      _ = core.run 1 f := run_add hf 1
      _ = .next g := hrun2 0
  · rw [absorbAll_eq_foldl m M (a := a) (by simpa using ha), hglanes]
    exact congrArg (fun A => Keccak.keccakF (padLanes m a A)) hflanes
  · have hreplicate : List.replicate (M.length + 2) (0 : ResponseWord) = [0] ++ List.replicate M.length 0 ++ [0] := by
      rw [List.replicate_succ', List.replicate_succ]
      rfl
    rw [hgresp, hreplicate, ← List.append_assoc, ← List.append_assoc]
    exact congrArg (· ++ [0]) hfresp

/-- INIT with room for the digest, ABSORB of each byte, FINAL, and `k` SQUEEZE within the digest answer HASH(mode, M, k)
(R128). -/
theorem run_hash {cap : BitVec 16} {M : List Byte} {k : Nat} {rest : List HostEvent}
    (hroom : capTooSmall m cap = false) (hk : ∀ l, m.outlen = some l → k ≤ l.toNat)
    (hin : s.hostInput = asEvents (.init m.code cap :: (absorbCommands M ++ .final :: squeezeCommands k)) ++ rest) :
    ∃ g t, core.run (M.length + 2) s = .next g ∧ g.lanes = absorbAll m M ∧
      g.responses = s.responses ++ List.replicate (M.length + 2) 0 ∧
      core.run k g = .next t ∧ t.hostInput = rest ∧
      t.responses = g.responses ++ (hash m M k).map (responseWord .ok) := by
  have hsplit : s.hostInput = .command (encode (.init m.code cap)) ::
      (asEvents (absorbCommands M) ++ .command (encode .final) :: (asEvents (squeezeCommands k) ++ rest)) := by
    rw [hin]
    simp [asEvents]
  obtain ⟨g, hg, hgc, hgin, hglanes, hgresp⟩ := run_absorb_all M hroom hsplit
  have hk' : ∀ l, m.outlen = some l → 0 + k ≤ l.toNat := fun l hl => by simpa using hk l hl
  obtain ⟨t, ht, -⟩ := run_squeezes_control k hgc (Nat.zero_le _) hk' hgin
  obtain ⟨htin, htresp⟩ := run_squeezes_data k hgc (Nat.zero_le _) hk' hgin ht
  exact ⟨g, t, hg, hglanes, hgresp, ht, htin, by rw [htresp, hglanes]; rfl⟩

/-- The INIT of a digest finds the buffer too small exactly when `k` is (R80): OUTLEN is below the cap of 65535. -/
theorem capTooSmall_digestInit (m : Mode) (k : Nat) :
    capTooSmall m (BitVec.ofNat 16 (min k 65535)) = true ↔ ∃ l, m.outlen = some l ∧ k < l.toNat := by
  rw [capTooSmall_eq_true_iff]
  refine exists_congr fun l => and_congr_right fun _ => ?_
  have hcap : (BitVec.ofNat 16 (min k 65535)).toNat = min k 65535 := Nat.mod_eq_of_lt (by omega)
  have hl := l.isLt
  omega

/-- INIT with too small a buffer is refused (R130). -/
theorem execInit_of_no_room {cap : BitVec 16} (h : capTooSmall m cap = true) (s : State) :
    execInit m.code cap s = refuse .invalidLength s := by
  simp [execInit, modeOperand_eq_some.mpr rfl, h]

/-- A digest has at most OUTLEN bytes where there is an OUTLEN. -/
theorem digestLength_le (m : Mode) (k : Nat) : ∀ l, m.outlen = some l → digestLength m k ≤ l.toNat := by
  intro l hl
  simp [digestLength, hl]

/-- Settles O60: the sequence is INIT, the message, FINAL and the output bytes, and its INIT decides on the buffer. -/
theorem digestSequences : Obligations.DigestSequences := by
  refine fun s m k M rest => ⟨fun hlen hin => ?_, fun hshort => ?_⟩
  · have hroom : capTooSmall m (BitVec.ofNat 16 (min k 65535)) = false := by
      rw [← Bool.not_eq_true, capTooSmall_digestInit]
      rintro ⟨l, hl, hlt⟩
      exact absurd (hlen l hl) (Nat.not_le.mpr hlt)
    obtain ⟨g, t, hg, -, hgresp, ht, htin, htresp⟩ := run_hash hroom (digestLength_le m k) hin
    exact ⟨t, (run_add hg _).trans ht, htin, by rw [htresp, hgresp]⟩
  · exact execInit_of_no_room ((capTooSmall_digestInit m k).mpr hshort) s

end Sys2Proof.Machine
end

section
/-! Lane rotation and the five step mappings (40_permutation.md R91 to R98): the laws of ROL64, each mapping lane by lane, the
periods of rho and pi, and the rounds of the permutation. -/

namespace Sys2Proof.Machine.Keccak

variable (A : Lanes)

/-! ### Rotation -/

theorem rol64_eq_self {n : Nat} (h : n % 64 = 0) (v : Lane) : rol64 v n = v := if_pos h

theorem rol64_rol64 (v : Lane) (a b : Nat) : rol64 (rol64 v a) b = rol64 v (a + b) := by
  apply BitVec.eq_of_getLsbD_eq
  intro z hz
  rw [getLsbD_rol64 _ _ _ hz, getLsbD_rol64 _ _ _ (Nat.mod_lt _ (by decide)), getLsbD_rol64 _ _ _ hz]
  congr 1
  omega

theorem rol64_xor (v u : Lane) (n : Nat) : rol64 (v ^^^ u) n = rol64 v n ^^^ rol64 u n := by
  apply BitVec.eq_of_getLsbD_eq
  intro z hz
  simp [getLsbD_rol64 _ _ _ hz]

/-- Settles O12: the bit rule of `getLsbD_rol64` read the other way round, and the laws above. -/
theorem rotationLaws : Obligations.RotationLaws := by
  refine ⟨fun v n z hz => ?_, rol64_eq_self rfl, rol64_eq_self rfl, rol64_rol64, rol64_xor⟩
  rw [getLsbD_rol64 _ _ _ (Nat.mod_lt _ (by decide))]
  congr 1
  omega

/-! ### Lanes by number and by coordinates -/

@[simp] theorem lane_replicate (v : Lane) (x y : Fin 5) : lane (Vector.replicate 25 v) x y = v := by
  simp [lane]

/-- Two states with the same lane at every number are equal. -/
theorem lanes_ext {A B : Lanes} (h : ∀ i : Fin Config.laneCount, A[i] = B[i]) : A = B :=
  Vector.ext fun i hi => h ⟨i, hi⟩

/-! ### theta -/

@[simp] theorem lane_theta (x y : Fin 5) : lane (theta A) x y = lane A x y ^^^ thetaEffect A x :=
  lane_ofCoordinates _ x y

/-- Even parity everywhere leaves theta nothing to add. -/
theorem theta_of_even_columns {A : Lanes} (h : ∀ x, columnParity A x = 0) : theta A = A := by
  apply lanes_ext_lane
  intro x y
  simp [thetaEffect, h, rol64]

/-- Settles O13: the formula at a coordinate is the definition's. -/
theorem thetaFormula : Obligations.ThetaFormula :=
  ⟨lane_theta, fun _ => theta_of_even_columns⟩

/-! ### rho -/

theorem getElem_rho (i : Fin Config.laneCount) : (rho A)[i] = rol64 A[i] rotationOffsets[i] :=
  getElem_tabulate _ i.val i.isLt

/-- Settles O14: the table in the statement is RHO. -/
theorem rhoFormula : Obligations.RhoFormula := by
  refine ⟨fun A i => ?_, rho_lane_zero⟩
  have htable : ∀ i : Fin 25, rotationOffsets[i] =
      [0, 1, 62, 28, 27, 36, 44, 6, 55, 20, 3, 10, 43, 25, 39, 41, 45, 15, 21, 8, 18, 2, 61, 56, 14].getD i.val 0 := by
    decide
  rw [← htable i]
  exact getElem_rho A i

/-- Each rho adds its offset to the rotation of the lane. -/
theorem getElem_rho_iterate (k : Nat) (i : Fin Config.laneCount) :
    (rho^[k] A)[i] = rol64 A[i] (k * rotationOffsets[i]) := by
  induction k with
  | zero => exact (rol64_eq_self (by simp) A[i]).symm
  | succ k ih => rw [Function.iterate_succ_apply', getElem_rho, ih, rol64_rol64, Nat.succ_mul]

/-- 64 times any offset is a whole number of turns (R101). -/
theorem rho_iterate_64 : rho^[64] A = A := by
  apply lanes_ext
  intro i
  rw [getElem_rho_iterate]
  exact rol64_eq_self (Nat.mul_mod_right 64 _) A[i]

/-! ### pi -/

@[simp] theorem lane_pi (x y : Fin 5) : lane (pi A) x y = lane A (x + 3 * y) x := lane_ofCoordinates _ x y

/-- The move of lanes on coordinates: its target `(y, 2x + 3y)` is filled from `(x, y)` (R94). -/
theorem lane_pi_target (x y : Fin 5) : lane (pi A) y (2 * x + 3 * y) = lane A x y := by
  have hsource : y + 3 * (2 * x + 3 * y) = x := by
    revert x y
    decide
  rw [lane_pi, hsource]

/-- PI_SRC is the formula of pi by lane numbers (R94). -/
theorem piSource_eq_laneNumber :
    ∀ i : Fin Config.laneCount, piSource[i] = laneNumber (column i + 3 * row i) (column i) := by
  decide

theorem getElem_pi (i : Fin Config.laneCount) : (pi A)[i] = A[piSource[i]] := by
  rw [getElem_eq_lane, lane_pi]
  exact congrArg (fun j : Fin 25 => A[j]) (piSource_eq_laneNumber i).symm

/-- The lane that pi puts at number `i` (R94). -/
def piSourceOf (i : Fin 25) : Fin 25 := piSource[i]

/-- Settles O15: on coordinates and on numbers by the lemmas above, the cycle by following it. -/
theorem piFormula : Obligations.PiFormula :=
  ⟨lane_pi, lane_pi_target, getElem_pi, rfl, by decide⟩

theorem getElem_pi_iterate (k : Nat) (i : Fin Config.laneCount) : (pi^[k] A)[i] = A[piSourceOf^[k] i] := by
  induction k generalizing i with
  | zero => rfl
  | succ k ih => rw [Function.iterate_succ_apply', getElem_pi, ih]; rfl

/-- After 24 moves every lane is back (R102). -/
theorem pi_iterate_24 : pi^[24] A = A := by
  have hcycle : ∀ i, piSourceOf^[24] i = i := by decide
  apply lanes_ext
  intro i
  rw [getElem_pi_iterate, hcycle]

/-! ### chi -/

@[simp] theorem lane_chi (x y : Fin 5) :
    lane (chi A) x y = lane A x y ^^^ (~~~ lane A (x + 1) y &&& lane A (x + 2) y) :=
  lane_ofCoordinates _ x y

/-- chi keeps a state of equal lanes: `~v & v` is 0. -/
theorem chi_replicate (v : Lane) : chi (Vector.replicate 25 v) = Vector.replicate 25 v := by
  apply lanes_ext_lane
  intro x y
  have hnone : ~~~v &&& v = 0#64 := by simp
  rw [lane_chi, lane_replicate, lane_replicate, lane_replicate, hnone, BitVec.xor_zero]

/-- Settles O16: the formula at a coordinate is the definition's, and both corner cases are states of equal lanes. -/
theorem chiFormula : Obligations.ChiFormula :=
  ⟨lane_chi, chi_replicate 0, chi_replicate (BitVec.allOnes 64)⟩

/-! ### iota -/

theorem iota_lane_zero (i : Fin Config.roundCount) : (iota A i)[0] = A[0] ^^^ roundConstants[i] :=
  Vector.getElem_set_self _

theorem iota_iota (i : Fin Config.roundCount) : iota (iota A i) i = A := by
  apply lanes_ext
  intro j
  by_cases hj : j = 0
  · subst hj
    show (iota (iota A i) i)[0] = A[0]
    rw [iota_lane_zero, iota_lane_zero, BitVec.xor_assoc, BitVec.xor_self, BitVec.xor_zero]
  · rw [iota_lane_of_ne _ _ hj, iota_lane_of_ne _ _ hj]

/-- Settles O17: iota sets lane 0 only, and adding a constant twice is nothing. -/
theorem iotaFormula : Obligations.IotaFormula := fun A i =>
  ⟨iota_lane_zero A i, fun _ hj => iota_lane_of_ne A i hj, iota_iota A i⟩

/-! ### The round and the permutation -/

/-- The round indices rise from 0 (R98). -/
theorem getElem_roundIndices : ∀ i : Fin 24, roundIndices[i.val]'i.isLt = i := by
  decide

/-- Rounds in a row from `A` give the states of any sequence that takes one round after the other. -/
theorem foldl_take_eq_seq {A : Lanes} {seq : Nat → Lanes} (hstart : seq 0 = A)
    (hnext : ∀ i : Fin 24, seq (i.val + 1) = round (seq i.val) i) {k : Nat} (hk : k ≤ 24) :
    (roundIndices.take k).foldl round A = seq k := by
  induction k with
  | zero => exact hstart.symm
  | succ k ih =>
    have hindex : roundIndices[k] = ⟨k, hk⟩ := getElem_roundIndices ⟨k, hk⟩
    rw [List.take_succ_eq_append_getElem hk, List.foldl_append, ih (by omega), hindex]
    exact (hnext ⟨k, hk⟩).symm

/-- Settles O18: the definition's list of indices is 0 to 23 in order. -/
theorem permutationIsTwentyFourRounds : Obligations.PermutationIsTwentyFourRounds :=
  ⟨fun _ _ => rfl, fun _ _ hstart hnext => foldl_take_eq_seq hstart hnext le_rfl⟩

end Sys2Proof.Machine.Keccak
end

section
/-! The engine is bijective (40_permutation.md R107): rho, pi and iota by their periods, chi by its inverse, theta because no
column parities but even ones meet the equation that equal results give. -/

namespace Sys2Proof.Machine.Keccak

/-! ### Injective is enough -/

/-- There are finitely many 1600-bit states. -/
theorem finite_lanes : Finite Lanes :=
  Finite.of_injective (fun (A : Lanes) (i : Fin Config.laneCount) => A[i]) fun _ _ h => lanes_ext (congrFun h)

theorem bijective_of_injective {f : Lanes → Lanes} (h : Function.Injective f) : Function.Bijective f :=
  have := finite_lanes
  Finite.injective_iff_bijective.mp h

/-- A mapping that comes back to every state after `n + 1` times has its `n`-th iterate for an inverse. -/
theorem bijective_of_iterate {f : Lanes → Lanes} {n : Nat} (h : ∀ A, f^[n + 1] A = A) : Function.Bijective f :=
  bijective_of_injective (Function.LeftInverse.injective (g := f^[n]) h)

/-! ### chi -/

/-- The inverse of chi, row by row. -/
def chiInverse (B : Lanes) : Lanes :=
  ofCoordinates fun x y => lane B x y ^^^
    (~~~ lane B (x + 1) y &&& (lane B (x + 2) y ^^^ (~~~ lane B (x + 3) y &&& lane B (x + 4) y)))

/-- One bit of a row through chi and back. -/
theorem chi_row_bit (a b c d e : Bool) :
    ((a ^^ (!b && c)) ^^ (!(b ^^ (!c && d)) &&
      ((c ^^ (!d && e)) ^^ (!(d ^^ (!e && a)) && (e ^^ (!a && b)))))) = a := by
  revert a b c d e
  decide

theorem chiInverse_chi (A : Lanes) : chiInverse (chi A) = A := by
  apply lanes_ext_lane
  intro x y
  apply BitVec.eq_of_getElem_eq
  intro z hz
  have hwrap : x + 1 + 1 = x + 2 ∧ x + 1 + 2 = x + 3 ∧ x + 2 + 1 = x + 3 ∧ x + 2 + 2 = x + 4 ∧ x + 3 + 1 = x + 4 ∧
      x + 3 + 2 = x ∧ x + 4 + 1 = x ∧ x + 4 + 2 = x + 1 := by
    revert x
    decide
  simp only [chiInverse, lane_ofCoordinates, lane_chi, hwrap, BitVec.getElem_xor, BitVec.getElem_and, BitVec.getElem_not]
  exact chi_row_bit _ _ _ _ _

/-! ### theta -/

/-- Where one rotation of `C` adds two shifts of it, twice the rotation adds the doubled shifts: the mixed terms cancel. -/
theorem rol64_double {C : Fin 5 → Lane} {n : Nat} {a b : Fin 5} (h : ∀ i, rol64 (C i) n = C (i + a) ^^^ C (i + b))
    (i : Fin 5) : rol64 (C i) (n + n) = C (i + (a + a)) ^^^ C (i + (b + b)) := by
  have hmixed : i + b + a = i + a + b := add_right_comm i b a
  calc rol64 (C i) (n + n)
    _ = rol64 (C (i + a)) n ^^^ rol64 (C (i + b)) n := by rw [← rol64_rol64, h, rol64_xor]
    _ = (C (i + a + a) ^^^ C (i + a + b)) ^^^ (C (i + a + b) ^^^ C (i + b + b)) := by rw [h, h, hmixed]
    _ = C (i + a + a) ^^^ C (i + b + b) := by
      rw [BitVec.xor_assoc, ← BitVec.xor_assoc (C (i + a + b)), BitVec.xor_self, BitVec.zero_xor]
    _ = C (i + (a + a)) ^^^ C (i + (b + b)) := by rw [add_assoc, add_assoc]

/-- Five lanes of which each is the sum of the next two are 0: they repeat after three places, and after five. -/
theorem eq_zero_of_sum_of_next_two {C : Fin 5 → Lane} (h : ∀ i, C i = C (i + 1) ^^^ C (i + 2)) (i : Fin 5) : C i = 0 := by
  have hthree : ∀ i, C (i + 3) = C i := fun i => by
    have hnext : C (i + 1) = C (i + 2) ^^^ C (i + 3) := by simpa [add_assoc] using h (i + 1)
    rw [h i, hnext, BitVec.xor_assoc, BitVec.xor_comm (C (i + 3)), ← BitVec.xor_assoc, BitVec.xor_self, BitVec.zero_xor]
  have hone : ∀ i, C (i + 1) = C i := fun i => by
    rw [← hthree i, ← hthree (i + 3), add_assoc]
    rfl
  calc C i
    _ = C (i + 1) ^^^ C (i + 1 + 1) := by rw [add_assoc]; exact h i
    _ = C (i + 1) ^^^ C (i + 1) := by rw [hone (i + 1)]
    _ = 0 := BitVec.xor_self

/-- Column parities that meet theta's equation are 0: doubled six times it speaks of a rotation by 64. -/
theorem eq_zero_of_rol64_one {C : Fin 5 → Lane} (h : ∀ i, rol64 (C i) 1 = C (i + 4) ^^^ C (i + 3)) (i : Fin 5) :
    C i = 0 := by
  have h2 := rol64_double h
  have h4 := rol64_double h2
  have h8 := rol64_double h4
  have h16 := rol64_double h8
  have h32 := rol64_double h16
  have h64 : ∀ i, rol64 (C i) 64 = C (i + 1) ^^^ C (i + 2) := rol64_double h32
  exact eq_zero_of_sum_of_next_two (fun i => (rol64_eq_self rfl (C i)).symm.trans (h64 i)) i

/-- The effect, added to five lanes of a column, counts once in its parity. -/
theorem columnParity_theta (A : Lanes) (x : Fin 5) : columnParity (theta A) x = columnParity A x ^^^ thetaEffect A x := by
  simp only [columnParity, lane_theta]
  grind

/-- Two equal sums of three lanes, solved for the last of them. -/
theorem xor_eq_of_sums_eq {a a' p p' q q' : Lane} (h : p ^^^ (q ^^^ a) = p' ^^^ (q' ^^^ a')) :
    a ^^^ a' = (p ^^^ p') ^^^ (q ^^^ q') := by
  rw [← BitVec.xor_eq_zero_iff] at h ⊢
  rw [← h]
  ac_rfl

/-- The columns of two states that theta makes equal have the same parities. -/
theorem columnParity_eq_of_theta_eq {A B : Lanes} (h : theta A = theta B) (x : Fin 5) :
    columnParity A x = columnParity B x := by
  rw [← BitVec.xor_eq_zero_iff]
  refine eq_zero_of_rol64_one (C := fun x => columnParity A x ^^^ columnParity B x) (fun i => ?_) x
  have hsums : columnParity A (i + 4) ^^^ thetaEffect A (i + 4) = columnParity B (i + 4) ^^^ thetaEffect B (i + 4) := by
    rw [← columnParity_theta, ← columnParity_theta, h]
  have hthree : i + 4 + 4 = i + 3 := add_assoc i 4 4
  have hself : i + 4 + 1 = i := (add_assoc i 4 1).trans (add_zero i)
  rw [thetaEffect, thetaEffect, hthree, hself] at hsums
  rw [rol64_xor]
  exact xor_eq_of_sums_eq hsums

theorem theta_injective : Function.Injective theta := by
  intro A B h
  apply lanes_ext_lane
  intro x y
  have heffect : thetaEffect A x = thetaEffect B x := by
    rw [thetaEffect, thetaEffect, columnParity_eq_of_theta_eq h, columnParity_eq_of_theta_eq h]
  have hlane : lane A x y ^^^ thetaEffect A x = lane B x y ^^^ thetaEffect B x := by
    rw [← lane_theta, ← lane_theta, h]
  rwa [heffect, BitVec.xor_left_inj] at hlane

/-! ### The round and the permutation -/

theorem theta_bijective : Function.Bijective theta := bijective_of_injective theta_injective

theorem rho_bijective : Function.Bijective rho := bijective_of_iterate rho_iterate_64

theorem pi_bijective : Function.Bijective pi := bijective_of_iterate pi_iterate_24

theorem chi_bijective : Function.Bijective chi :=
  bijective_of_injective (Function.LeftInverse.injective chiInverse_chi)

theorem iota_bijective (i : Fin Config.roundCount) : Function.Bijective (iota · i) :=
  Function.Involutive.bijective fun A => iota_iota A i

theorem round_bijective (i : Fin Config.roundCount) : Function.Bijective (round · i) :=
  (iota_bijective i).comp (chi_bijective.comp (pi_bijective.comp (rho_bijective.comp theta_bijective)))

/-- Any sequence of rounds is a bijection. -/
theorem foldl_round_bijective (l : List (Fin Config.roundCount)) : Function.Bijective fun A => l.foldl round A := by
  induction l with
  | nil => exact Function.bijective_id
  | cons i l ih => exact ih.comp (round_bijective i)

/-- Settles O20: each mapping by its lemma, the round by composing them, the permutation as a sequence of rounds. -/
theorem engineIsBijective : Obligations.EngineIsBijective :=
  ⟨theta_bijective, rho_bijective, pi_bijective, chi_bijective, iota_bijective, round_bijective,
    foldl_round_bijective roundIndices⟩

end Sys2Proof.Machine.Keccak
end

section
/-! The combined rho-and-pi loop (40_permutation.md R99): each lane it writes comes from the lane it wrote before, which is the
lane pi takes it from, and it writes every lane but lane 0. -/

namespace Sys2Proof.Machine.Keccak

/-- A loop entry reads from the lane of the entry before it: pi's source, rotated by rho's offset for that source. -/
abbrev Feeds (p q : Fin Config.laneCount × Nat) : Prop := piSource[q.1] = p.1 ∧ rotationOffsets[p.1] = q.2

/-- A lane that gets the rotated lane of the entry before it holds what pi after rho puts there. -/
theorem Feeds.getElem_pi_rho {p q : Fin Config.laneCount × Nat} (h : Feeds p q) (B : Lanes) :
    (pi (rho B))[q.1] = rol64 B[p.1] q.2 := by
  obtain ⟨hsource, hoffset⟩ := h
  calc (pi (rho B))[q.1]
    _ = (rho B)[piSource[q.1]] := getElem_pi (rho B) q.1
    _ = (rho B)[p.1] := congrArg (fun j : Fin 25 => (rho B)[j]) hsource
    _ = rol64 B[p.1] q.2 := by rw [getElem_rho, hoffset]

theorem getElem_set_of_ne (A : Lanes) (v : Lane) {i j : Fin Config.laneCount} (h : i ≠ j) : (A.set j v)[i] = A[i] :=
  Vector.getElem_set_ne _ _ fun e => h (Fin.ext e.symm)

/-- The loop leaves the lanes it does not list. -/
theorem getElem_rhoPiLoop_of_notMem {i : Fin Config.laneCount} (l : List (Fin Config.laneCount × Nat)) (A : Lanes) (t : Lane)
    (hi : i ∉ l.map Prod.fst) : (rhoPiLoop l A t)[i] = A[i] := by
  induction l generalizing A t with
  | nil => rfl
  | cons q more ih =>
    obtain ⟨hne, hmore⟩ := List.ne_and_not_mem_of_not_mem_cons hi
    rw [rhoPiLoop, ih _ _ hmore, getElem_set_of_ne _ _ hne]

/-- Along a chain of entries the loop puts pi after rho of `B` into every lane it lists, from lanes `A` that are still those of
`B` there and from `B`'s lane of the entry before the first. -/
theorem getElem_rhoPiLoop_of_chain {B : Lanes} (l : List (Fin Config.laneCount × Nat)) (A : Lanes)
    (p : Fin Config.laneCount × Nat) (hchain : (p :: l).IsChain Feeds) (hdistinct : (l.map Prod.fst).Nodup)
    (hA : ∀ j ∈ l.map Prod.fst, A[j] = B[j]) :
    ∀ i ∈ l.map Prod.fst, (rhoPiLoop l A B[p.1])[i] = (pi (rho B))[i] := by
  induction l generalizing A p with
  | nil => nofun
  | cons q more ih =>
    obtain ⟨hfeeds, hchain⟩ := List.isChain_cons_cons.mp hchain
    obtain ⟨hnew, hdistinct⟩ := List.nodup_cons.mp hdistinct
    obtain ⟨hq, hmore⟩ := List.forall_mem_cons.mp hA
    intro i hi
    rw [rhoPiLoop, hq]
    obtain rfl | hi := List.mem_cons.mp hi
    · rw [getElem_rhoPiLoop_of_notMem _ _ _ hnew, hfeeds.getElem_pi_rho]
      exact Vector.getElem_set_self _
    · refine ih _ q hchain hdistinct (fun j hj => ?_) i hi
      rw [getElem_set_of_ne _ _ (ne_of_mem_of_not_mem hj hnew)]
      exact hmore j hj

/-- The lists of R99 form such a chain from lane 1 on. -/
theorem isChain_loop : ((1, 0) :: loopLanes.zip loopRotations).IsChain Feeds := by
  decide

theorem map_fst_loop : (loopLanes.zip loopRotations).map Prod.fst = loopLanes := rfl

/-- The loop writes each lane but lane 0. -/
theorem mem_loopLanes_iff (i : Fin Config.laneCount) : i ∈ loopLanes ↔ i ≠ 0 := by
  revert i
  decide

/-- Settles O19: the listed lanes by the chain, lane 0 because the loop, rho and pi all leave it. -/
theorem rhoPiLoopIsPiAfterRho : Obligations.RhoPiLoopIsPiAfterRho := by
  intro A
  apply lanes_ext
  intro i
  by_cases hi : i = 0
  · subst hi
    calc (rhoPiInPlace A)[(0 : Fin 25)]
      _ = A[(0 : Fin 25)] := getElem_rhoPiLoop_of_notMem _ A A[1] (by decide)
      _ = (rho A)[(0 : Fin 25)] := (rho_lane_zero A).symm
      _ = (pi (rho A))[(0 : Fin 25)] := (pi_lane_zero (rho A)).symm
  · refine getElem_rhoPiLoop_of_chain _ A (1, 0) isChain_loop ?_ (fun _ _ => rfl) i ?_
    · decide
    · rw [map_fst_loop]
      exact (mem_loopLanes_iff i).mpr hi

end Sys2Proof.Machine.Keccak
end

section
/-! How the words of one opcode decode, for every row of the opcode map (30_encoding.md R72, R74). -/

namespace Sys2Proof

open Machine (DecodesAs reservedBits)

/-- The words of a row's opcode: the row's command where they match the row, illegal where a reserved bit is set (R72, R74). -/
theorem decodesAs_of_row {r : OpcodeRow} (hr : r ∈ opcodeTable) : DecodesAs r.mask r.pattern r.assemble := by
  refine ⟨fun w hw => decode_eq_ok_iff.mpr ⟨r, hr, hw, rfl⟩, fun w hop hw => ?_⟩
  have hopField : opField w = opField r.pattern := hop
  have hreserved : reservedBits (opField w) = some (r.mask &&& operandBits) := by
    rw [hopField, reservedBits_of_row r hr]
  exact decode_of_reserved hreserved fun hzero => hw ((matches_iff hr).mpr ⟨hopField, hzero⟩)

end Sys2Proof
end

section
/-! The permutation commands (40_permutation.md R100 to R106): the two shapes of an engine command, the commands one by one, and
the sequences of R105 that make a round and the permutation. -/

namespace Sys2Proof.Machine

variable {s t : State}

/-! ### The shapes of an engine command -/

theorem mapLanes_of_idle (hp : s.phase = .idle) (f : Lanes → Lanes) :
    mapLanes f s = .next (respond 0 (s.setLanes (f s.lanes))) := inPhase_of_eq hp

theorem mapLanes_of_ne_idle (hp : s.phase ≠ .idle) (f : Lanes → Lanes) : mapLanes f s = .next (raise .wrongPhase s) :=
  inPhase_of_ne hp

theorem mapLanesAt_of_ne_idle (hp : s.phase ≠ .idle) (f : Lanes → Fin Config.roundCount → Lanes) (idx : BitVec 5) :
    mapLanesAt f idx s = .next (raise .wrongPhase s) := inPhase_of_ne hp

theorem mapLanesAt_of_idle (hp : s.phase = .idle) (f : Lanes → Fin Config.roundCount → Lanes) {idx : BitVec 5}
    {i : Fin Config.roundCount} (hi : i.val = idx.toNat) :
    mapLanesAt f idx s = .next (respond 0 (s.setLanes (f s.lanes i))) := by
  rw [mapLanesAt, inPhase_of_eq hp, roundOperand_eq_some.mpr hi]
  rfl

theorem mapLanesAt_of_bad_index (hp : s.phase = .idle) (f : Lanes → Fin Config.roundCount → Lanes) {idx : BitVec 5}
    (hi : 23 < idx.toNat) : mapLanesAt f idx s = .next (raise .badOperand s) := by
  rw [mapLanesAt, inPhase_of_eq hp, roundOperand_eq_none.mpr hi]
  rfl

theorem eq_of_mapLanes_next {f : Lanes → Lanes} (h : mapLanes f s = .next t) (hp : s.phase = .idle) :
    t = respond 0 (s.setLanes (f s.lanes)) :=
  complete_next.mp ((inPhase_of_eq hp).symm.trans h)

theorem eq_of_mapLanesAt_next {f : Lanes → Fin Config.roundCount → Lanes} {idx : BitVec 5}
    (h : mapLanesAt f idx s = .next t) (hp : s.phase = .idle) {i : Fin Config.roundCount} (hi : i.val = idx.toNat) :
    t = respond 0 (s.setLanes (f s.lanes i)) := by
  obtain ⟨⟩ := (mapLanesAt_of_idle hp f hi).symm.trans h
  rfl

/-! ### The commands one by one -/

/-- Settles O29: the row of PERMUTE, and what a command on all lanes answers in and out of IDLE. -/
theorem permuteRunsPermutation : Obligations.PermuteRunsPermutation :=
  ⟨decodesAs_of_row (r := ⟨"PERMUTE", 0xFFFFFFFF, 0x10000000, fun _ => .permute⟩) (by simp [opcodeTable]),
    fun _ => ⟨fun hp => mapLanes_of_ne_idle hp _, fun hp => mapLanes_of_idle hp _⟩⟩

/-- Settles O30: the row of ROUND, and what a command with a round index answers. -/
theorem roundRunsOneRound : Obligations.RoundRunsOneRound :=
  ⟨decodesAs_of_row (r := ⟨"ROUND", 0xFFFFFFE0, 0x11000000, fun w => .round (idxField w)⟩) (by simp [opcodeTable]),
    fun _ idx => ⟨fun hp => mapLanesAt_of_ne_idle hp _ idx, fun hp hi => mapLanesAt_of_bad_index hp _ hi,
      fun hp _ hi => mapLanesAt_of_idle hp _ hi⟩⟩

/-- Settles O31: the row of THETA, and what a command on all lanes answers. -/
theorem thetaCommand : Obligations.ThetaCommand :=
  ⟨decodesAs_of_row (r := ⟨"THETA", 0xFFFFFFFF, 0x12000000, fun _ => .theta⟩) (by simp [opcodeTable]),
    fun _ => ⟨fun hp => mapLanes_of_ne_idle hp _, fun hp => mapLanes_of_idle hp _⟩⟩

/-- Settles O32: the period is that of rotation by 64 times any offset. -/
theorem rhoCommand : Obligations.RhoCommand :=
  ⟨decodesAs_of_row (r := ⟨"RHO", 0xFFFFFFFF, 0x13000000, fun _ => .rho⟩) (by simp [opcodeTable]),
    fun s => ⟨fun hp => mapLanes_of_ne_idle hp _, fun hp => mapLanes_of_idle hp _, Keccak.rho_iterate_64 s.lanes⟩⟩

/-- Settles O33: the period is that of the 24-cycle of lanes. -/
theorem piCommand : Obligations.PiCommand :=
  ⟨decodesAs_of_row (r := ⟨"PI", 0xFFFFFFFF, 0x14000000, fun _ => .pi⟩) (by simp [opcodeTable]),
    fun s => ⟨fun hp => mapLanes_of_ne_idle hp _, fun hp => mapLanes_of_idle hp _, Keccak.pi_iterate_24 s.lanes⟩⟩

/-- Settles O34: the row of CHI, and what a command on all lanes answers. -/
theorem chiCommand : Obligations.ChiCommand :=
  ⟨decodesAs_of_row (r := ⟨"CHI", 0xFFFFFFFF, 0x15000000, fun _ => .chi⟩) (by simp [opcodeTable]),
    fun _ => ⟨fun hp => mapLanes_of_ne_idle hp _, fun hp => mapLanes_of_idle hp _⟩⟩

/-- Settles O35: the row of IOTA, and what a command with a round index answers. -/
theorem iotaCommand : Obligations.IotaCommand :=
  ⟨decodesAs_of_row (r := ⟨"IOTA", 0xFFFFFFE0, 0x16000000, fun w => .iota (idxField w)⟩) (by simp [opcodeTable]),
    fun _ idx => ⟨fun hp => mapLanesAt_of_ne_idle hp _ idx, fun hp hi => mapLanesAt_of_bad_index hp _ hi,
      fun hp _ hi => mapLanesAt_of_idle hp _ hi⟩⟩

/-! ### Rounds -/

/-- The commands ROUND of the round indices listed. -/
def roundCommands (l : List (Fin Config.roundCount)) : List Instr := l.map fun i => .round (BitVec.ofNat 5 i.val)

theorem exec_round_of_idle (hp : s.phase = .idle) (i : Fin Config.roundCount) :
    ∃ t, exec (.round (BitVec.ofNat 5 i.val)) s = .next t ∧ SameRegisters t (s.setLanes (Keccak.round s.lanes i)) := by
  have hi : i.val = (BitVec.ofNat 5 i.val).toNat := (Nat.mod_eq_of_lt (i.isLt.trans (by decide))).symm
  exact ⟨_, mapLanesAt_of_idle hp Keccak.round hi, rfl, rfl, rfl, rfl, rfl⟩

/-- ROUND of a list of indices in IDLE runs those rounds on the lanes and leaves the other registers. -/
theorem run_rounds (l : List (Fin Config.roundCount)) {rest : List HostEvent} (hp : s.phase = .idle)
    (hin : s.hostInput = asEvents (roundCommands l) ++ rest) :
    ∃ t, core.run l.length s = .next t ∧ SameRegisters t (s.setLanes (l.foldl Keccak.round s.lanes)) := by
  induction l generalizing s with
  | nil => exact ⟨s, rfl, rfl, rfl, rfl, rfl, rfl⟩
  | cons i l ih =>
    obtain ⟨u, hexec, hu⟩ := exec_round_of_idle (s := { s with hostInput := asEvents (roundCommands l) ++ rest }) hp i
    obtain ⟨huin, hrun⟩ := run_succ_of_exec hin hexec
    obtain ⟨t, ht, hlanes, hmode, hphase, hpos, hout⟩ := ih (hu.phase.trans hp) huin
    exact ⟨t, (hrun _).trans ht, hlanes.trans (congrArg (l.foldl Keccak.round) hu.lanes), hmode.trans hu.mode,
      hphase.trans hu.phase, hpos.trans hu.pos, hout.trans hu.outcnt⟩

/-- Settles O38: the five commands one after the other, and the 24 rounds as a run. -/
theorem roundIsFiveStepCommands : Obligations.RoundIsFiveStepCommands := by
  refine ⟨fun s s1 s2 s3 s4 s5 idx hp hidx h1 h2 h3 h4 h5 => ?_, fun s rest hp hin => ?_⟩
  · obtain rfl := eq_of_mapLanes_next h1 hp
    obtain rfl := eq_of_mapLanes_next h2 hp
    obtain rfl := eq_of_mapLanes_next h3 hp
    obtain rfl := eq_of_mapLanes_next h4 hp
    obtain ⟨i, hi⟩ : ∃ i : Fin Config.roundCount, i.val = idx.toNat := ⟨⟨idx.toNat, Nat.lt_succ_of_le hidx⟩, rfl⟩
    obtain rfl := eq_of_mapLanesAt_next h5 hp hi
    exact ⟨_, mapLanesAt_of_idle hp Keccak.round hi, rfl, rfl, rfl, rfl, rfl⟩
  · obtain ⟨t, ht, hsame⟩ := run_rounds Keccak.roundIndices hp hin
    exact ⟨t, _, ht, mapLanes_of_idle hp Keccak.keccakF, hsame.lanes, hsame.mode, hsame.phase, hsame.pos, hsame.outcnt⟩

end Sys2Proof.Machine
end

section
/-! The sponge commands (41_sponge.md R130 to R135) in the terms of the spec: INIT's checks, the registers SQUEEZE counts in, the
status byte, and the commands one by one. -/

namespace Sys2Proof.Machine

variable {s : State}

/-- A buffer is large enough exactly when it holds OUTLEN bytes, where the mode has an OUTLEN (R127). -/
theorem capTooSmall_eq_false_iff {m : Mode} {cap : BitVec 16} :
    capTooSmall m cap = false ↔ ∀ n, m.outlen = some n → n.toNat ≤ cap.toNat := by
  simp [← Bool.not_eq_true, capTooSmall_eq_true_iff]

/-- INIT of mode 6 or 7 is refused (R130). -/
theorem execInit_of_bad_mode {mode : BitVec 3} (h : 5 < mode.toNat) (cap : BitVec 16) (s : State) :
    execInit mode cap s = refuse .badOperand s := by
  simp [execInit, modeOperand_eq_none.mpr h]

/-- Settles O23: the row of INIT, then its two checks in their order. -/
theorem initStartsInvocation : Obligations.InitStartsInvocation := by
  refine ⟨decodesAs_of_row (r := ⟨"INIT", 0xFFF80000, 0x01000000, fun w => .init (modeField w) (capField w)⟩)
    (by simp [opcodeTable]), fun s mode cap => ⟨fun hmode => execInit_of_bad_mode hmode cap s, ?_⟩⟩
  rintro m rfl
  exact ⟨fun hshort => execInit_of_no_room (capTooSmall_eq_true_iff.mpr hshort) s,
    fun hroom => execInit_of_room (capTooSmall_eq_false_iff.mpr hroom) s⟩

/-- Settles O24: the row of ABSORB, and whether the byte it XORs in completes the block. -/
theorem absorbTakesOneByte : Obligations.AbsorbTakesOneByte := by
  refine ⟨decodesAs_of_row (r := ⟨"ABSORB", 0xFFFFFF00, 0x02000000, fun w => .absorb (imm8Field w)⟩)
    (by simp [opcodeTable]), fun s v => ⟨fun hp => inPhase_of_ne hp, fun hp a ha => ?_⟩⟩
  refine (execAbsorb_of_address hp ha v).trans ?_
  split
  · rename_i hend
    rw [closeBlock_of_eq hend]
    rfl
  · rename_i hend
    rw [closeBlock_of_ne hend]
    rfl

/-- Settles O25: the row of FINAL, whose second XOR is at the byte before RATE. -/
theorem finalPadsAndPermutes : Obligations.FinalPadsAndPermutes := by
  refine ⟨decodesAs_of_row (r := ⟨"FINAL", 0xFFFFFFFF, 0x03000000, fun _ => .final⟩) (by simp [opcodeTable]),
    fun s => ⟨fun hp => inPhase_of_ne hp, fun hp a e ha he => ?_⟩⟩
  obtain rfl : e = s.mode.lastAddress := Fin.ext (Nat.eq_sub_of_add_eq he)
  exact execFinal_of_address hp ha

/-- OUTCNT counts in modes 2 to 5, those with an OUTLEN (R28, R133). -/
theorem countOutput_eq (s : State) :
    countOutput s = { s with pos := s.pos + 1, outcnt := if 2 ≤ s.mode.code.toNat then s.outcnt + 1 else s.outcnt } := by
  by_cases hm : s.mode.code.toNat < 2
  · simp [countOutput, s.mode.outlen_eq_none_iff.mpr hm, Nat.not_le.mpr hm, State.setPos]
  · obtain ⟨n, hn⟩ := Option.ne_none_iff_exists'.mp (mt s.mode.outlen_eq_none_iff.mp hm)
    simp [countOutput, hn, Nat.not_lt.mp hm, State.setPos, State.setOutcnt]

/-- Settles O26: the row of SQUEEZE, its two refusals, and the byte at POS in the block that stands or the one it opens. -/
theorem squeezeGivesOneByte : Obligations.SqueezeGivesOneByte := by
  refine ⟨decodesAs_of_row (r := ⟨"SQUEEZE", 0xFFFFFFFF, 0x04000000, fun _ => .squeeze⟩) (by simp [opcodeTable]),
    fun s => ⟨fun hp => inPhase_of_ne hp, fun hp hall => ?_, fun hp hleft => ⟨fun hend => ?_, fun hend a ha => ?_⟩⟩⟩
  · have hdone : outputDone s = true := by simp [outputDone, hall]
    simp [exec, execSqueeze, inPhase_of_eq hp, hdone, refuse]
  · have hopen : openBlock s = permuteBlock s := closeBlock_of_eq hend
    calc exec .squeeze s
      _ = giveByte (permuteBlock s) := hopen ▸ execSqueeze_of_output_left hp hleft
      _ = complete (readByte (permuteBlock s).lanes 0) (countOutput (permuteBlock s)) := atPos_of_lt rfl
      _ = _ := by rw [countOutput_eq]; rfl
  · have hopen : openBlock s = s := closeBlock_of_ne hend
    calc exec .squeeze s
      _ = giveByte s := (execSqueeze_of_output_left hp hleft).trans (congrArg giveByte hopen)
      _ = complete (readByte s.lanes a) (countOutput s) := atPos_of_lt ha
      _ = _ := by rw [countOutput_eq]; rfl

/-- STAT's byte, its fields side by side, is the OR of the two codes shifted to their places (R134). -/
theorem statusByte_eq (m : Mode) (p : Phase) : statusByte m p = m.code.zeroExtend 8 <<< 2 ||| p.code.zeroExtend 8 := by
  cases m <;> cases p <;> rfl

/-- Settles O27: the row of STAT, and its status byte. -/
theorem statReadsControlState : Obligations.StatReadsControlState :=
  ⟨decodesAs_of_row (r := ⟨"STAT", 0xFFFFFFFF, 0x05000000, fun _ => .stat⟩) (by simp [opcodeTable]),
    fun s => statusByte_eq s.mode s.phase ▸ rfl⟩

/-- Settles O28: the row of CLEAR, which clears the registers as a reset does. -/
theorem clearWipesState : Obligations.ClearWipesState :=
  ⟨decodesAs_of_row (r := ⟨"CLEAR", 0xFFFFFFFF, 0x06000000, fun _ => .clear⟩) (by simp [opcodeTable]),
    fun _ => rfl⟩

end Sys2Proof.Machine
end

section
/-! The phase table over all commands (41_sponge.md R129), and how far the counters go under the invariants (R54, R127). -/

namespace Sys2Proof.Machine

variable {s t : State} {i : Instr}

/-! ### Phases -/

/-- A command out of its phases is refused before any other check (R129, R164). -/
theorem exec_of_illegal (h : legalIn i s.phase = false) : exec i s = refuse .wrongPhase s := by
  cases i with
  | init | stat | clear => cases h
  | absorb | final | squeeze | permute | round | theta | rho | pi | chi | iota | wrs | rds =>
    exact inPhase_of_ne (ne_of_beq_false h)

/-- A command leaves the phase of the table, or is refused. -/
theorem exec_phase (h : exec i s = .next t) :
    t.phase = phaseAfter i s.phase ∨ ∃ st : Status, st.Refuses ∧ t = raise st s := by
  cases i with
  | init =>
    obtain ⟨-, rfl⟩ | ⟨m, -, -, rfl⟩ | ⟨m, -, -, rfl⟩ := execInit_next h
    · exact .inr ⟨_, by decide, rfl⟩
    · exact .inr ⟨_, by decide, rfl⟩
    · exact .inl rfl
  | final =>
    obtain ⟨-, a, -, rfl⟩ | ⟨-, rfl⟩ := execFinal_next h
    · exact .inl rfl
    · exact .inr ⟨_, by decide, rfl⟩
  | clear =>
    obtain rfl := execClear_next h
    exact .inl rfl
  | absorb =>
    obtain ⟨-, hphase, -⟩ := execAbsorb_control h
    exact .inl hphase
  | squeeze => exact .inl (execSqueeze_control h).2
  | stat => exact .inl (execStat_keepsControl h).1.phase
  | permute | theta | rho | pi | chi => exact .inl (mapLanes_keepsControl h).1.phase
  | round | iota => exact .inl (mapLanesAt_keepsControl h).1.phase
  | wrs => exact .inl (execWrs_keepsControl h).phase
  | rds => exact .inl (execRds_keepsControl h).1.phase

/-- The status of a refusal is not OK. -/
theorem statusField_of_raise {st : Status} (hst : st.Refuses) {r : ResponseWord}
    (hr : (raise st s).responses = s.responses ++ [r]) : statusField r ≠ 0 := by
  obtain rfl : responseWord st 0 = r := by simpa using hr
  exact (responseWord_of_refuses hst).1

/-- A command that answers with status OK was not refused, so it was legal in its phase and leaves the phase of the table. -/
theorem phase_of_completed (h : exec i s = .next t) {r : ResponseWord} (hr : t.responses = s.responses ++ [r])
    (hok : statusField r = 0) : legalIn i s.phase = true ∧ t.phase = phaseAfter i s.phase := by
  constructor
  · rw [← Bool.not_eq_false]
    intro hillegal
    obtain rfl := refuse_next.mp ((exec_of_illegal hillegal).symm.trans h)
    exact statusField_of_raise (by decide) hr hok
  · obtain hphase | ⟨st, hst, rfl⟩ := exec_phase h
    · exact hphase
    · exact absurd hok (statusField_of_raise hst hr)

/-- A command that answers with another status than OK was refused, so the phase is as before. -/
theorem phase_of_refused (h : exec i s = .next t) {r : ResponseWord} (hr : t.responses = s.responses ++ [r])
    (hstatus : statusField r ≠ 0) : t.phase = s.phase := by
  cases exec_answers h with
  | refused hst => rfl
  | @completed d u hd hin hu =>
    obtain rfl : responseWord .ok d = r := by simpa [hu] using hr
    exact absurd (statusField_responseWord .ok d) hstatus

/-- Settles O46: the phase check comes first, and the status of the answer tells a refused command from a completed one. -/
theorem phaseTransitions : Obligations.PhaseTransitions := fun _ _ =>
  ⟨exec_of_illegal, fun _ _ h hr => ⟨phase_of_completed h hr, phase_of_refused h hr⟩⟩

/-! ### Counters -/

/-- The longest fixed-output digest has 64 bytes (R29). -/
theorem Mode.outlen_le {m : Mode} {n : BitVec 7} (h : m.outlen = some n) : n.toNat ≤ 64 := by
  cases m <;> simp only [Mode.outlen, Option.some.injEq, reduceCtorEq] at h <;> subst h <;> decide

/-- POS never passes RATE (R37 c to e). -/
theorem State.Inv.pos_le_rate (hs : s.Inv) : s.pos.toNat ≤ s.mode.rate.toNat := by
  cases hp : s.phase with
  | idle =>
    obtain ⟨-, hpos, -⟩ := hs.idle hp
    simp [hpos]
  | absorb => exact Nat.le_of_succ_le (hs.absorb hp).1
  | squeeze => exact hs.squeeze hp

/-- OUTCNT never passes OUTLEN, and is 0 where there is none (R37 c, d, f, g). -/
theorem State.Inv.outcnt_le (hs : s.Inv) : s.outcnt.toNat ≤ 64 := by
  cases hn : s.mode.outlen with
  | none => simp [hs.unbounded hn]
  | some n =>
    cases hp : s.phase with
    | idle =>
      obtain ⟨-, -, hout⟩ := hs.idle hp
      simp [hout]
    | absorb => simp [(hs.absorb hp).2]
    | squeeze =>
      obtain ⟨hcount, hle, -⟩ := hs.counted n hp hn
      have := Mode.outlen_le hn
      omega

/-- Settles O49: POS is bounded by RATE and OUTCNT by OUTLEN, whose largest values are 168 and 64. -/
theorem countersStayBounded : Obligations.CountersStayBounded := fun s hs =>
  ⟨hs.pos_le_rate.trans s.mode.rate_bounds.2, hs.outcnt_le, fun hp => (hs.absorb hp).1⟩

end Sys2Proof.Machine
end

section
/-! The sponge contracts (41_sponge.md R122, R125, R128): the padded block byte by byte, squeezing in parts, and the commands as
the hash. -/

namespace Sys2Proof.Machine

/-- The padded block before bit 7 of its last byte is set: the tail, the domain byte, zero fill (R122). -/
theorem getElem?_tail_domain_fill (T : List Byte) (d : Byte) {n k : Nat} (hk : k < T.length + 1 + n) :
    (T ++ d :: List.replicate n 0)[k]? = some (if k < T.length then T.getD k 0 else if k = T.length then d else 0) := by
  obtain hlt | rfl | hgt := lt_trichotomy k T.length
  · simp [List.getElem?_append_left hlt, hlt]
  · simp
  · obtain ⟨j, hj⟩ : ∃ j, k - T.length = j + 1 := Nat.exists_eq_succ_of_ne_zero (by omega)
    rw [List.getElem?_append_right hgt.le, hj, List.getElem?_cons_succ, List.getElem?_replicate_of_lt (by omega),
      if_neg hgt.not_gt, if_neg hgt.ne']

theorem length_pad {rate : Nat} {T : List Byte} (hT : T.length < rate) (d : Byte) : (pad rate T d).length = rate := by
  simp [pad]
  omega

/-- Settles O56: the byte list before the last bit is set, then the byte in which it is set. -/
theorem paddingLayout : Obligations.PaddingLayout := by
  refine ⟨or_eq_xor_dsuf, fun rate T d hT => ⟨length_pad hT d, fun k hk => ?_⟩⟩
  rw [pad, List.getElem?_modify, getElem?_tail_domain_fill T d (by omega)]
  by_cases hlast : k = rate - 1
  · simp [hlast]
  · simp [hlast, Ne.symm hlast]

/-- Settles O57: by induction on the bytes squeezed first; each is the first byte of the longer squeeze too. -/
theorem squeezeMayBeRestarted : Obligations.SqueezeMayBeRestarted := by
  intro rate n k A p
  induction n generalizing A p with
  | zero => simp [squeezeFrom]
  | succ n ih =>
    rw [Nat.add_right_comm]
    simp only [squeezeFrom, ih, List.cons_append]

/-- Settles O59: the buffer has room, so the sequence runs whole. -/
theorem commandsComputeHash : Obligations.CommandsComputeHash := fun _ _ _ _ _ _ hlen hin =>
  run_hash (capTooSmall_eq_false_iff.mpr fun n hn => (hlen n hn).1) (fun n hn => (hlen n hn).2) hin

end Sys2Proof.Machine
end

section
/-! Raw state access (42_raw_access.md R150 to R152): WRS bit by bit, the two commands one by one, and the runs of them that
write and read a whole lane. -/

namespace Sys2Proof.Machine

variable {s : State}

/-! ### The commands one by one -/

theorem atAddress_of_ne_idle (hp : s.phase ≠ .idle) (addr : BitVec 8) (f : Fin Config.stateBytes → Result) :
    atAddress addr s f = .next (raise .wrongPhase s) := inPhase_of_ne hp

theorem atAddress_of_bad_address (hp : s.phase = .idle) {addr : BitVec 8} (ha : 199 < addr.toNat)
    (f : Fin Config.stateBytes → Result) : atAddress addr s f = .next (raise .badOperand s) := by
  rw [atAddress, inPhase_of_eq hp, addrOperand_eq_none.mpr ha]
  rfl

theorem atAddress_of_idle (hp : s.phase = .idle) {addr : BitVec 8} {a : Fin Config.stateBytes} (ha : a.val = addr.toNat)
    (f : Fin Config.stateBytes → Result) : atAddress addr s f = f a := by
  rw [atAddress, inPhase_of_eq hp, addrOperand_eq_some.mpr ha]

/-- The lanes after a byte write, bit by bit: the written byte in its place, every other bit as before (R51, R150). -/
theorem getLsbD_writeByte (A : Lanes) (a : Fin Config.stateBytes) (v : Byte) (i : Fin Config.laneCount) (j : Nat) :
    (writeByte A a v)[i].getLsbD j =
      if i.val = a.val / 8 ∧ 8 * (a.val % 8) ≤ j ∧ j ≤ 8 * (a.val % 8) + 7 then v.getLsbD (j - 8 * (a.val % 8))
      else A[i].getLsbD j := by
  by_cases hi : i.val = a.val / 8
  · simp only [hi, true_and, Fin.getElem_fin, getLsbD_writeByte_lane, Nat.lt_succ_iff]
  · have hlane : (writeByte A a v)[i] = A[i] := Vector.getElem_set_ne _ _ (Ne.symm hi)
    simp only [hi, false_and, if_false, hlane]

/-- Settles O36: the row of WRS, its two refusals, and the bits of the lanes it writes. -/
theorem wrsWritesOneByte : Obligations.WrsWritesOneByte := by
  refine ⟨decodesAs_of_row (r := ⟨"WRS", 0xFFFF0000, 0x18000000, fun w => .wrs (addrField w) (imm8Field w)⟩)
    (by simp [opcodeTable]), fun s addr v => ⟨fun hp => atAddress_of_ne_idle hp addr _,
    fun hp ha => atAddress_of_bad_address hp ha _, fun hp a ha => ?_⟩⟩
  exact ⟨writeByte s.lanes a v, atAddress_of_idle hp ha _, fun i j _ => ha ▸ getLsbD_writeByte s.lanes a v i j⟩

/-- Settles O37: the row of RDS, its two refusals, and the byte it answers. -/
theorem rdsReadsOneByte : Obligations.RdsReadsOneByte :=
  ⟨decodesAs_of_row (r := ⟨"RDS", 0xFFFF00FF, 0x19000000, fun w => .rds (addrField w)⟩) (by simp [opcodeTable]),
    fun _ addr => ⟨fun hp => atAddress_of_ne_idle hp addr _, fun hp ha => atAddress_of_bad_address hp ha _,
      fun hp _ ha => atAddress_of_idle hp ha _⟩⟩

/-! ### Runs of raw accesses -/

/-- The `addr` operand of a state byte. -/
def addressField (a : Fin Config.stateBytes) : BitVec 8 := BitVec.ofNat 8 a.val

theorem val_eq_addressField_toNat (a : Fin Config.stateBytes) : a.val = (addressField a).toNat :=
  (Nat.mod_eq_of_lt (a.isLt.trans (by decide))).symm

/-- The WRS that copies byte `a` of the lanes `B`. -/
def copyCommand (B : Lanes) (a : Fin Config.stateBytes) : Instr := .wrs (addressField a) (readByte B a)

theorem exec_copy_of_idle (hp : s.phase = .idle) (B : Lanes) (a : Fin Config.stateBytes) :
    exec (copyCommand B a) s = .next (respond 0 (s.setLanes (writeByte s.lanes a (readByte B a)))) :=
  atAddress_of_idle hp (val_eq_addressField_toNat a) _

theorem responseWord_ok_zero : responseWord .ok 0#8 = 0#16 := rfl

/-- In IDLE, WRS of bytes of `B`, in any order, leaves the lanes `B` when it covers every byte where they differ. -/
theorem run_copies {B : Lanes} (l : List (Fin Config.stateBytes)) {rest : List HostEvent}
    (hin : s.hostInput = asEvents (l.map (copyCommand B)) ++ rest) (hp : s.phase = .idle)
    (hcover : ∀ b, b ∉ l → readByte s.lanes b = readByte B b) :
    core.run l.length s =
      .next { s with lanes := B, hostInput := rest, responses := s.responses ++ List.replicate l.length 0 } := by
  induction l generalizing s with
  | nil =>
    have hlanes : s.lanes = B := lanes_ext_bytes fun b => hcover b List.not_mem_nil
    have hinput : s.hostInput = rest := hin
    simp [Host.Core.run, ← hlanes, ← hinput]
  | cons a l ih =>
    have hexec := exec_copy_of_idle (s := { s with hostInput := asEvents (l.map (copyCommand B)) ++ rest }) hp B a
    obtain ⟨huin, hrun⟩ := run_succ_of_exec hin hexec
    have hcover' : ∀ b, b ∉ l → readByte (writeByte s.lanes a (readByte B a)) b = readByte B b := fun b hb => by
      by_cases hba : b = a
      · rw [hba, readByte_writeByte_self]
      · rw [readByte_writeByte_of_ne _ _ hba, hcover b (by simp [hba, hb])]
    refine (hrun _).trans ((ih huin hp hcover').trans ?_)
    simp [List.replicate_succ, responseWord_ok_zero]

theorem exec_read_of_idle (hp : s.phase = .idle) (a : Fin Config.stateBytes) :
    exec (.rds (addressField a)) s = .next (respond (readByte s.lanes a) s) :=
  atAddress_of_idle hp (val_eq_addressField_toNat a) _

/-- In IDLE, RDS at a list of addresses answers the bytes there in that order and changes no register. -/
theorem run_reads (l : List (Fin Config.stateBytes)) {rest : List HostEvent}
    (hin : s.hostInput = asEvents (l.map fun a => .rds (addressField a)) ++ rest) (hp : s.phase = .idle) :
    core.run l.length s = .next { s with
      hostInput := rest
      responses := s.responses ++ l.map fun a => responseWord .ok (readByte s.lanes a) } := by
  induction l generalizing s with
  | nil =>
    have hinput : s.hostInput = rest := hin
    simp [Host.Core.run, ← hinput]
  | cons a l ih =>
    have hexec := exec_read_of_idle
      (s := { s with hostInput := asEvents (l.map fun a => .rds (addressField a)) ++ rest }) hp a
    obtain ⟨huin, hrun⟩ := run_succ_of_exec hin hexec
    refine (hrun _).trans ((ih huin hp).trans ?_)
    simp

/-! ### The bytes of one lane -/

/-- The address of byte `k` of lane `i` (R51). -/
def laneAddress (i : Fin Config.laneCount) (k : Fin 8) : Fin Config.stateBytes :=
  ⟨8 * i.val + k.val, by have hi : i.val < 25 := i.isLt; simp only [Config.stateBytes]; omega⟩

/-- The addresses of a lane in rising order. -/
def laneAddresses (i : Fin Config.laneCount) : List (Fin Config.stateBytes) := (List.finRange 8).map (laneAddress i)

theorem readByte_laneAddress (A : Lanes) (i : Fin Config.laneCount) (k : Fin 8) :
    readByte A (laneAddress i k) = A[i].extractLsb' (8 * k.val) 8 := by
  have hlane : (8 * i.val + k.val) / 8 = i.val := by omega
  have hbyte : (8 * i.val + k.val) % 8 = k.val := by omega
  simp [readByte, laneAddress, hlane, hbyte]

theorem mem_laneAddresses_of_lane_eq {i : Fin Config.laneCount} {b : Fin Config.stateBytes} (h : b.val / 8 = i.val) :
    b ∈ laneAddresses i :=
  List.mem_map.mpr ⟨⟨b.val % 8, Nat.mod_lt _ (by decide)⟩, List.mem_finRange _,
    Fin.ext (by simp only [laneAddress, ← h]; omega)⟩

/-- Replacing a lane leaves the bytes at the addresses of the others. -/
theorem readByte_set_of_notMem (A : Lanes) (v : Lane) {i : Fin Config.laneCount} {b : Fin Config.stateBytes}
    (h : b ∉ laneAddresses i) : readByte (A.set i v) b = readByte A b := by
  have hne : i.val ≠ b.val / 8 := fun e => h (mem_laneAddresses_of_lane_eq e.symm)
  simp [readByte, Vector.getElem_set_ne, hne]

/-- A function of the addresses of a lane, in terms of the byte numbers 0 to 7. -/
theorem map_laneAddresses {α : Type} (f : Fin Config.stateBytes → α) (g : Nat → α) {i : Fin Config.laneCount}
    (h : ∀ k : Fin 8, f (laneAddress i k) = g k.val) : (laneAddresses i).map f = (List.range 8).map g := by
  rw [laneAddresses, List.map_map, ← List.map_coe_finRange_eq_range, List.map_map]
  exact List.map_congr_left fun k _ => h k

/-- WRLANE copies the bytes of any state that has the lane (R152). -/
theorem writeLaneCommands_eq (A : Lanes) (i : Fin Config.laneCount) (v : Lane) :
    writeLaneCommands i v = (laneAddresses i).map (copyCommand (A.set i v)) := by
  refine (map_laneAddresses _ _ fun k => ?_).symm
  have hlane : (A.set i v)[i] = v := Vector.getElem_set_self _
  rw [copyCommand, readByte_laneAddress, hlane]
  rfl

theorem readLaneCommands_eq (i : Fin Config.laneCount) :
    readLaneCommands i = (laneAddresses i).map fun a => .rds (addressField a) :=
  (map_laneAddresses _ _ fun _ => rfl).symm

/-- Reordering a mapped list is mapping a reordered list. -/
theorem exists_perm_of_perm_map {α β : Type} {f : α → β} {l : List β} {k : List α} (h : l.Perm (k.map f)) :
    ∃ k' : List α, k'.Perm k ∧ k'.map f = l := by
  have hmem : l ∈ k.permutations.map (List.map f) := by rwa [List.map_permutations, List.mem_permutations]
  obtain ⟨k', hk', hl⟩ := List.mem_map.mp hmem
  exact ⟨k', List.mem_permutations.mp hk', hl⟩

/-- Settles O55: WRLANE copies the eight bytes in which the new lanes can differ, RDLANE reads them. -/
theorem wholeLaneSequences : Obligations.WholeLaneSequences := by
  refine ⟨fun s i v l rest hp hl hin => ?_, fun s i rest hp hin => ?_⟩
  · rw [writeLaneCommands_eq s.lanes] at hl
    obtain ⟨addrs, haddrs, rfl⟩ := exists_perm_of_perm_map hl
    have hlen : addrs.length = 8 := haddrs.length_eq
    have hrun := run_copies addrs hin hp fun b hb =>
      (readByte_set_of_notMem s.lanes v (mt haddrs.mem_iff.mpr hb)).symm
    rwa [hlen] at hrun
  · rw [readLaneCommands_eq] at hin
    have hrun := run_reads (laneAddresses i) hin hp
    rwa [map_laneAddresses _ (fun k => responseWord .ok (s.lanes[i].extractLsb' (8 * k) 8))
      fun k => congrArg (responseWord .ok) (readByte_laneAddress s.lanes i k)] at hrun

end Sys2Proof.Machine
end

section
/-! Refused commands (60_exceptions.md R160 to R164): each condition of the table is checked by the command it is for, in the
order of R164; where none holds the command completes unless POS is no address; and a refusal changes nothing. -/

namespace Sys2Proof.Machine

variable {s t : State} {i : Instr}

/-! ### The conditions of the table -/

/-- INIT's length condition in numbers is that the buffer is too small for the mode (R127, R130). -/
theorem lengthInvalid_init (m : Mode) (cap : BitVec 16) : lengthInvalid (.init m.code cap) = capTooSmall m cap := by
  cases m <;> simp [lengthInvalid, capTooSmall, Mode.code, Mode.outlen]

/-- SQUEEZE's output condition in numbers is that all OUTLEN bytes have been given (R133). -/
theorem outputExhausted_squeeze (s : State) : outputExhausted .squeeze s = outputDone s := by
  cases hm : s.mode <;> simp [outputExhausted, outputDone, hm, Mode.outlen, beq_eq_decide]

/-- A `mode` operand in its legal range is the code of an algorithm (R71). -/
theorem exists_code_eq {mode : BitVec 3} {cap : BitVec 16} (h : (Instr.init mode cap).WellFormed) :
    ∃ m : Mode, mode = m.code := by
  have hm : modeOperand mode ≠ none := fun hnone =>
    absurd (modeOperand_eq_none.mp hnone) (Nat.not_le.mpr (Nat.lt_succ_of_le (of_decide_eq_true h)))
  obtain ⟨m, hm⟩ := Option.ne_none_iff_exists'.mp hm
  exact ⟨m, modeOperand_eq_some.mp hm⟩

/-! ### Each condition refuses -/

theorem exec_of_badOperand (hp : legalIn i s.phase = true) (hi : ¬ i.WellFormed) :
    exec i s = refuse .badOperand s := by
  cases i with
  | init mode cap => exact execInit_of_bad_mode (by simpa [Instr.wellFormed] using hi) cap s
  | round | iota => exact mapLanesAt_of_bad_index (eq_of_beq hp) _ (by simpa [Instr.wellFormed] using hi)
  | wrs | rds => exact atAddress_of_bad_address (eq_of_beq hp) (by simpa [Instr.wellFormed] using hi) _
  | absorb | final | squeeze | stat | clear | permute | theta | rho | pi | chi => exact absurd rfl hi

theorem exec_of_lengthInvalid (hi : i.WellFormed) (h : lengthInvalid i = true) (s : State) :
    exec i s = refuse .invalidLength s := by
  cases i with
  | init mode cap =>
    obtain ⟨m, rfl⟩ := exists_code_eq hi
    exact execInit_of_no_room (lengthInvalid_init m cap ▸ h) s
  | absorb | final | squeeze | stat | clear | permute | round | theta | rho | pi | chi | iota | wrs | rds => cases h

theorem exec_of_outputExhausted (hp : legalIn i s.phase = true) (h : outputExhausted i s = true) :
    exec i s = refuse .outputExhausted s := by
  obtain rfl : i = .squeeze := eq_of_beq (Bool.and_elim_left h)
  exact (inPhase_of_eq (eq_of_beq hp)).trans (if_pos (outputExhausted_squeeze s ▸ h))

/-- A command is refused with the first condition that holds (R164). -/
theorem exec_of_refusalOf {st : Status} (h : refusalOf i s = some st) : exec i s = refuse st s := by
  unfold refusalOf at h
  split_ifs at h with hp hi hl ho <;> cases h
  · exact exec_of_illegal hp
  · exact exec_of_badOperand (by simpa using hp) (by simpa using hi)
  · exact exec_of_lengthInvalid (by simpa using hi) hl s
  · exact exec_of_outputExhausted (by simpa using hp) ho

/-! ### Where no condition holds -/

theorem conditions_of_refusalOf_eq_none (h : refusalOf i s = none) :
    legalIn i s.phase = true ∧ i.WellFormed ∧ lengthInvalid i = false ∧ outputExhausted i s = false := by
  unfold refusalOf at h
  split_ifs at h with hp hi hl ho
  exact ⟨by simpa using hp, by simpa using hi, by simpa using hl, by simpa using ho⟩

/-- From `s` the result is a next state that answers with status OK. -/
def Completes (s : State) (r : Result) : Prop := ∃ d u, r = complete d u ∧ u.responses = s.responses

/-- From `s` the result is such a next state, or the stop at a POS that is no address (R50). -/
def CompletesOrFaults (s : State) (r : Result) : Prop :=
  Completes s r ∨ (200 ≤ s.pos.toNat ∧ r = .fault .noSuchStateByte)

theorem mapLanes_completes (hp : s.phase = .idle) (f : Lanes → Lanes) : Completes s (mapLanes f s) :=
  ⟨0, _, mapLanes_of_idle hp f, rfl⟩

theorem mapLanesAt_completes (hp : s.phase = .idle) (f : Lanes → Fin Config.roundCount → Lanes) {idx : BitVec 5}
    (hidx : idx.toNat ≤ 23) : Completes s (mapLanesAt f idx s) :=
  ⟨0, _, mapLanesAt_of_idle hp f (i := ⟨idx.toNat, Nat.lt_succ_of_le hidx⟩) rfl, rfl⟩

/-- A raw access completes at a legal address if it does at each byte. -/
theorem atAddress_completes (hp : s.phase = .idle) {addr : BitVec 8} (haddr : addr.toNat ≤ 199)
    {f : Fin Config.stateBytes → Result} (hf : ∀ a, Completes s (f a)) : Completes s (atAddress addr s f) := by
  rw [atAddress_of_idle hp (a := ⟨addr.toNat, Nat.lt_succ_of_le haddr⟩) rfl]
  exact hf _

theorem execInit_completes (m : Mode) {cap : BitVec 16} (h : lengthInvalid (.init m.code cap) = false) (s : State) :
    Completes s (execInit m.code cap s) :=
  ⟨0, _, execInit_of_room (lengthInvalid_init m cap ▸ h) s, rfl⟩

/-- An access at POS completes wherever POS is an address, if it does at each byte. -/
theorem atPos_completesOrFaults {f : Fin Config.stateBytes → Result} (hf : ∀ a, Completes s (f a)) :
    CompletesOrFaults s (atPos s f) := by
  obtain hlt | hge := Nat.lt_or_ge s.pos.toNat 200
  · rw [atPos_of_lt (a := ⟨s.pos.toNat, hlt⟩) rfl]
    exact .inl (hf _)
  · exact .inr ⟨hge, atPos_of_ge hge⟩

theorem execAbsorb_completesOrFaults (hp : s.phase = .absorb) (v : Byte) : CompletesOrFaults s (execAbsorb v s) := by
  rw [execAbsorb, inPhase_of_eq hp]
  exact atPos_completesOrFaults fun a => ⟨0, _, rfl, by simp⟩

theorem execFinal_completesOrFaults (hp : s.phase = .absorb) : CompletesOrFaults s (execFinal s) := by
  rw [execFinal, inPhase_of_eq hp]
  exact atPos_completesOrFaults fun a => ⟨0, _, rfl, rfl⟩

/-- A block that SQUEEZE opens starts at address 0, so it stops only at a POS that stood before. -/
theorem execSqueeze_completesOrFaults (hp : s.phase = .squeeze) (hd : outputDone s = false) :
    CompletesOrFaults s (execSqueeze s) := by
  rw [execSqueeze_of_output_left hp (outputDone_eq_false_iff_outlen_ne.mp hd)]
  obtain ⟨d, u, h, hu⟩ | ⟨hge, h⟩ :=
    atPos_completesOrFaults (s := openBlock s) fun a => ⟨readByte (openBlock s).lanes a, _, rfl, countOutput_responses _⟩
  · exact .inl ⟨d, u, h, hu.trans (openBlock_responses s)⟩
  · refine .inr ⟨?_, h⟩
    rw [openBlock_pos] at hge
    split at hge
    · simp at hge
    · exact hge

theorem exec_of_refusalOf_eq_none (h : refusalOf i s = none) : CompletesOrFaults s (exec i s) := by
  obtain ⟨hp, hi, hl, ho⟩ := conditions_of_refusalOf_eq_none h
  cases i with
  | init mode cap =>
    obtain ⟨m, rfl⟩ := exists_code_eq hi
    exact .inl (execInit_completes m hl s)
  | absorb v => exact execAbsorb_completesOrFaults (eq_of_beq hp) v
  | final => exact execFinal_completesOrFaults (eq_of_beq hp)
  | squeeze => exact execSqueeze_completesOrFaults (eq_of_beq hp) (outputExhausted_squeeze s ▸ ho)
  | stat => exact .inl ⟨_, s, rfl, rfl⟩
  | clear => exact .inl ⟨0, _, rfl, rfl⟩
  | permute | theta | rho | pi | chi => exact .inl (mapLanes_completes (eq_of_beq hp) _)
  | round | iota => exact .inl (mapLanesAt_completes (eq_of_beq hp) _ (of_decide_eq_true hi))
  | wrs | rds =>
    exact .inl (atAddress_completes (eq_of_beq hp) (of_decide_eq_true hi) fun a => ⟨_, _, rfl, rfl⟩)

/-- What a completed command answers. -/
theorem Completes.answer {r : Result} (h : Completes s r) :
    ∃ t d, r = .next t ∧ t.responses = s.responses ++ [responseWord .ok d] := by
  obtain ⟨d, u, rfl, hu⟩ := h
  exact ⟨_, d, rfl, congrArg (· ++ _) hu⟩

/-- A next state is none of the model's stops. -/
theorem CompletesOrFaults.completes_of_next (h : CompletesOrFaults s (.next t)) : Completes s (.next t) := by
  obtain h | ⟨-, h⟩ := h
  · exact h
  · cases h

/-- Under the invariants POS is an address (R37, R54). -/
theorem CompletesOrFaults.completes_of_inv {r : Result} (h : CompletesOrFaults s r) (hs : s.Inv) : Completes s r := by
  obtain h | ⟨hge, -⟩ := h
  · exact h
  · have hpos := hs.pos_le_rate
    have hrate := s.mode.rate_bounds
    omega

/-- Settles O44: the decoder comes before the conditions, and the command completes where none of them holds. -/
theorem refusalsInOrder : Obligations.RefusalsInOrder := by
  refine ⟨fun s w rest e hin hd => step_illegal hin hd, fun i s => ⟨fun st => exec_of_refusalOf, fun h t ht => ?_,
    fun h hs => ((exec_of_refusalOf_eq_none h).completes_of_inv hs).answer⟩⟩
  obtain ⟨_, d, ⟨⟩, hr⟩ := (CompletesOrFaults.completes_of_next (ht ▸ exec_of_refusalOf_eq_none h)).answer
  exact ⟨d, hr⟩

/-! ### Refused commands -/

/-- An answer with another status than OK comes from a refusal. -/
theorem Answers.eq_raise (h : Answers i s t) {r : ResponseWord} (hr : t.responses = s.responses ++ [r])
    (hstatus : statusField r ≠ 0) : ∃ st : Status, t = raise st s := by
  cases h with
  | @refused st _ => exact ⟨st, rfl⟩
  | @completed d u _ _ hu =>
    obtain rfl : responseWord .ok d = r := by simpa [hu] using hr
    exact absurd (statusField_responseWord .ok d) hstatus

/-- A refusal leaves the registers and the host's events, and its response word is the status alone (R162). -/
theorem raise_changes_nothing {st : Status} {r : ResponseWord} (hr : (raise st s).responses = s.responses ++ [r]) :
    SameRegisters s (raise st s) ∧ (raise st s).hostInput = s.hostInput ∧ r = (statusField r).zeroExtend 16 <<< 8 := by
  obtain rfl : responseWord st 0 = r := by simpa using hr
  refine ⟨⟨rfl, rfl, rfl, rfl, rfl⟩, rfl, ?_⟩
  rw [statusField_responseWord, responseWord_eq]
  simp

/-- Settles O45: the word is illegal or the command answers with a refusal, and either is the one shared refusal. -/
theorem refusedCommandChangesNothing : Obligations.RefusedCommandChangesNothing := by
  intro s t w rest r hin hstep hr hstatus
  have hraise : ∃ st : Status, t = raise st { s with hostInput := rest } := by
    cases hd : decode w with
    | ok i => exact (exec_answers ((step_command hin hd).symm.trans hstep)).eq_raise hr hstatus
    | error e => exact ⟨_, refuse_next.mp ((step_illegal hin hd).symm.trans hstep)⟩
  obtain ⟨st, rfl⟩ := hraise
  obtain ⟨hsame, hevents, hword⟩ := raise_changes_nothing hr
  exact ⟨⟨hsame.lanes, hsame.mode, hsame.phase, hsame.pos, hsame.outcnt⟩, hevents, hword⟩

end Sys2Proof.Machine
end

section
/-! Reset and hazards (70_reset_and_hazards.md): the reset input and CLEAR (R180), waiting (R181), that every command ends in a
next state (R191), and that the ports' contents decide nothing (R193): every command commutes with exchanging them. -/

namespace Sys2Proof.Machine

variable {s t : State}

/-! ### Reset and waiting -/

/-- Settles O6: both clear the registers, and the cleared registers are those of the reset state. -/
theorem resetInputAndClear : Obligations.ResetInputAndClear :=
  ⟨fun _ _ hin => step_reset hin, fun _ => rfl⟩

/-- Settles O8: the step that finds no event. -/
theorem idleBlockWaits : Obligations.IdleBlockWaits := fun _ => step_of_no_event

/-! ### Every step runs -/

/-- Under the invariants a command is refused by the block or completes. -/
theorem exec_runs (hs : s.Inv) (i : Instr) : Runs (exec i s) := by
  cases h : refusalOf i s with
  | some st => exact ⟨_, exec_of_refusalOf h⟩
  | none =>
    obtain ⟨t, -, ht, -⟩ := ((exec_of_refusalOf_eq_none h).completes_of_inv hs).answer
    exact ⟨t, ht⟩

/-- Settles O50: by the host's next event, and for a command word by whether it decodes. -/
theorem everyStepRuns : Obligations.EveryStepRuns := by
  intro s hs
  match hin : s.hostInput with
  | [] => exact ⟨_, step_of_no_event hin⟩
  | .reset :: rest => exact ⟨_, step_reset hin⟩
  | .command w :: rest =>
    cases hd : decode w with
    | ok i =>
      rw [step_command hin hd]
      exact exec_runs (hs.setHostInput rest) i
    | error e => exact ⟨_, step_illegal hin hd⟩

/-! ### Exchanging the ports -/

/-- The same registers between other ports: the host's events are `events`, and the responses `given` stand before those of
`s`. -/
def State.onPorts (events : List HostEvent) (given : List ResponseWord) (s : State) : State :=
  { s with hostInput := events, responses := given ++ s.responses }

/-- The registers alone, with nothing on the ports. -/
def State.unplugged (s : State) : State := { s with hostInput := [], responses := [] }

theorem State.onPorts_sameRegisters (events later : List HostEvent) (given before : List ResponseWord) (s : State) :
    SameRegisters (s.onPorts events given) (s.onPorts later before) :=
  ⟨rfl, rfl, rfl, rfl, rfl⟩

/-- Every state is its registers between its ports. -/
theorem State.onPorts_unplugged (s : State) (events : List HostEvent) :
    s.unplugged.onPorts events s.responses = { s with hostInput := events } :=
  State.ext_fields rfl rfl rfl rfl rfl rfl (List.append_nil _)

theorem SameRegisters.unplugged_eq (h : SameRegisters s t) : s.unplugged = t.unplugged :=
  State.ext_fields h.lanes h.mode h.phase h.pos h.outcnt rfl rfl

/-- The next state of a result is replaced; its stops are kept. -/
def mapNext (f : State → State) : Result → Result
  | .next s => .next (f s)
  | .fault r => .fault r
  | .refused r => .refused r

/-- Where the result with its next state replaced is a next state, it was one before. -/
theorem mapNext_eq_next {f : State → State} {r : Result} (h : mapNext f r = .next t) : ∃ u, r = .next u ∧ f u = t := by
  cases r with
  | next u => exact ⟨u, rfl, by simpa [mapNext] using h⟩
  | fault => cases h
  | refused => cases h

/-- The result is the same between any ports, but for what the ports hold. -/
def IgnoresPorts (go : State → Result) : Prop :=
  ∀ events given s, go (s.onPorts events given) = mapNext (State.onPorts events given) (go s)

/-- An update of the registers is the same between any ports. -/
def UpdateIgnoresPorts (f : State → State) : Prop :=
  ∀ events given s, f (s.onPorts events given) = (f s).onPorts events given

/-! ### The shared operations between other ports -/

theorem closeBlock_ignoresPorts : UpdateIgnoresPorts closeBlock := fun _ _ s =>
  (apply_ite (State.onPorts _ _) (s.pos = s.mode.rate) (permuteBlock s) s).symm

theorem countOutput_ignoresPorts : UpdateIgnoresPorts countOutput := by
  intro events given s
  rw [countOutput_eq, countOutput_eq]
  rfl

/-- A response goes out after those given before it. -/
theorem emit_ignoresPorts (st : Status) (d : Byte) : UpdateIgnoresPorts (emit st d) := fun _ _ _ =>
  State.ext_fields rfl rfl rfl rfl rfl rfl (List.append_assoc ..)

theorem refuse_ignoresPorts (st : Status) : IgnoresPorts (refuse st) := fun _ _ _ =>
  congrArg Host.Outcome.next (emit_ignoresPorts st 0 ..)

/-- A command that completes ignores the ports if its data byte and its update do. -/
theorem complete_ignoresPorts {d : State → Byte} {f : State → State}
    (hd : ∀ events given s, d (s.onPorts events given) = d s) (hf : UpdateIgnoresPorts f) :
    IgnoresPorts fun s => complete (d s) (f s) := by
  intro events given s
  simp only [hd, hf events given s]
  exact congrArg Host.Outcome.next (emit_ignoresPorts .ok (d s) ..)

theorem inPhase_ignoresPorts {p : Phase} {go : State → Result} (h : IgnoresPorts go) :
    IgnoresPorts fun s => inPhase p s (go s) := by
  intro events given s
  by_cases hp : s.phase = p
  · simp only [inPhase_of_eq hp, inPhase_of_eq (s := s.onPorts events given) hp, h events given s]
  · simp only [inPhase_of_ne hp, inPhase_of_ne (s := s.onPorts events given) hp,
      refuse_ignoresPorts .wrongPhase events given s]

theorem atPos_ignoresPorts {go : Fin Config.stateBytes → State → Result} (h : ∀ a, IgnoresPorts (go a)) :
    IgnoresPorts fun s => atPos s fun a => go a s := by
  intro events given s
  obtain hlt | hge := Nat.lt_or_ge s.pos.toNat 200
  · have ha : (⟨s.pos.toNat, hlt⟩ : Fin Config.stateBytes).val = s.pos.toNat := rfl
    simp only [atPos_of_lt ha, atPos_of_lt (s := s.onPorts events given) ha, h _ events given s]
  · simp only [atPos_of_ge hge, atPos_of_ge (s := s.onPorts events given) hge, mapNext]

theorem ite_ignoresPorts {c : State → Bool} {go other : State → Result}
    (hc : ∀ events given s, c (s.onPorts events given) = c s) (hgo : IgnoresPorts go) (hother : IgnoresPorts other) :
    IgnoresPorts fun s => if c s then go s else other s := by
  intro events given s
  simp only [hc, hgo events given s, hother events given s]
  split <;> rfl

theorem IgnoresPorts.comp {go : State → Result} {f : State → State} (hgo : IgnoresPorts go) (hf : UpdateIgnoresPorts f) :
    IgnoresPorts fun s => go (f s) := fun events given s =>
  (congrArg go (hf events given s)).trans (hgo events given (f s))

/-! ### The commands between other ports -/

theorem mapLanes_ignoresPorts (f : Lanes → Lanes) : IgnoresPorts (mapLanes f) :=
  inPhase_ignoresPorts (complete_ignoresPorts (fun _ _ _ => rfl) fun _ _ _ => rfl)

theorem mapLanesAt_ignoresPorts (f : Lanes → Fin Config.roundCount → Lanes) (idx : BitVec 5) :
    IgnoresPorts (mapLanesAt f idx) := by
  refine inPhase_ignoresPorts ?_
  cases roundOperand idx with
  | none => exact refuse_ignoresPorts .badOperand
  | some i => exact complete_ignoresPorts (fun _ _ _ => rfl) fun _ _ _ => rfl

theorem atAddress_ignoresPorts (addr : BitVec 8) {go : Fin Config.stateBytes → State → Result}
    (h : ∀ a, IgnoresPorts (go a)) : IgnoresPorts fun s => atAddress addr s fun a => go a s := by
  refine inPhase_ignoresPorts ?_
  cases addrOperand addr with
  | none => exact refuse_ignoresPorts .badOperand
  | some a => exact h a

theorem execInit_ignoresPorts (mode : BitVec 3) (cap : BitVec 16) : IgnoresPorts (execInit mode cap) := by
  change IgnoresPorts fun s => execInit mode cap s
  unfold execInit
  cases modeOperand mode with
  | none => exact refuse_ignoresPorts .badOperand
  | some m =>
    exact ite_ignoresPorts (fun _ _ _ => rfl) (refuse_ignoresPorts .invalidLength)
      (complete_ignoresPorts (fun _ _ _ => rfl) fun _ _ _ => rfl)

theorem execAbsorb_ignoresPorts (v : Byte) : IgnoresPorts (execAbsorb v) :=
  inPhase_ignoresPorts <| atPos_ignoresPorts fun a =>
    complete_ignoresPorts (fun _ _ _ => rfl) fun events given s => closeBlock_ignoresPorts events given (absorbByte a v s)

theorem execFinal_ignoresPorts : IgnoresPorts execFinal :=
  inPhase_ignoresPorts <| atPos_ignoresPorts fun _ => complete_ignoresPorts (fun _ _ _ => rfl) fun _ _ _ => rfl

theorem giveByte_ignoresPorts : IgnoresPorts giveByte :=
  atPos_ignoresPorts fun a =>
    complete_ignoresPorts (d := fun s => readByte s.lanes a) (fun _ _ _ => rfl) countOutput_ignoresPorts

theorem execSqueeze_ignoresPorts : IgnoresPorts execSqueeze :=
  inPhase_ignoresPorts <| ite_ignoresPorts (fun _ _ _ => rfl) (refuse_ignoresPorts .outputExhausted) <|
    giveByte_ignoresPorts.comp closeBlock_ignoresPorts

/-- No command reads a port (R35 b, R35 c). -/
theorem exec_ignoresPorts (i : Instr) : IgnoresPorts (exec i) := by
  cases i with
  | init mode cap => exact execInit_ignoresPorts mode cap
  | absorb v => exact execAbsorb_ignoresPorts v
  | final => exact execFinal_ignoresPorts
  | squeeze => exact execSqueeze_ignoresPorts
  | stat => exact complete_ignoresPorts (d := fun s => statusByte s.mode s.phase) (fun _ _ _ => rfl) fun _ _ _ => rfl
  | clear => exact complete_ignoresPorts (fun _ _ _ => rfl) fun _ _ _ => rfl
  | permute | theta | rho | pi | chi => exact mapLanes_ignoresPorts _
  | round idx | iota idx => exact mapLanesAt_ignoresPorts _ idx
  | wrs addr v =>
    exact atAddress_ignoresPorts addr fun _ => complete_ignoresPorts (fun _ _ _ => rfl) fun _ _ _ => rfl
  | rds addr =>
    exact atAddress_ignoresPorts addr fun a =>
      complete_ignoresPorts (d := fun s => readByte s.lanes a) (fun _ _ _ => rfl) fun _ _ _ => rfl

/-! ### Determinism -/

/-- What ignores the ports and adds one response does the same to equal registers, and the response is the same. -/
theorem IgnoresPorts.deterministic {go : State → Result} (hgo : IgnoresPorts go)
    (hone : ∀ {s t}, go s = .next t → ∃ r, t.responses = s.responses ++ [r]) (hst : SameRegisters s t)
    (more later : List HostEvent) {s' : State} (h : go { s with hostInput := more } = .next s') :
    ∃ t' r, go { t with hostInput := later } = .next t' ∧ SameRegisters s' t' ∧
      s'.responses = s.responses ++ [r] ∧ t'.responses = t.responses ++ [r] := by
  rw [← s.onPorts_unplugged, hgo] at h
  obtain ⟨u, hu, rfl⟩ := mapNext_eq_next h
  obtain ⟨r, hr⟩ := hone hu
  have hr : u.responses = [r] := hr
  refine ⟨u.onPorts later t.responses, r, ?_, u.onPorts_sameRegisters .., ?_, ?_⟩
  · rw [← t.onPorts_unplugged, hgo, ← hst.unplugged_eq, hu, mapNext]
  · exact congrArg (s.responses ++ ·) hr
  · exact congrArg (t.responses ++ ·) hr

/-- Settles O51: the word decodes alike, and neither a command nor the refusal of an illegal word reads a port. -/
theorem commandsAreDeterministic : Obligations.CommandsAreDeterministic := by
  intro w s s' t more later hst hs ht hstep
  cases hd : decode w with
  | ok i =>
    rw [step_command hs hd] at hstep
    rw [step_command ht hd]
    exact (exec_ignoresPorts i).deterministic (fun h => (exec_adds_one_response h).2) hst more later hstep
  | error e =>
    rw [step_illegal hs hd] at hstep
    rw [step_illegal ht hd]
    refine (refuse_ignoresPorts .illegalCommand).deterministic (fun h => ?_) hst more later hstep
    obtain rfl := refuse_next.mp h
    exact ⟨_, rfl⟩

end Sys2Proof.Machine
end
